-- ==== Sys2Proof/Word.lean ====
section
/-! DEFINITION. The word types of the WMBus codec CORE: bytes, 32-bit register words, and the two
fixed groupings of bytes the spec names (a 4-byte word or state column, a 16-byte block or key). -/

namespace Sys2Proof

/-- A byte of the buffer memory or of a byte sequence (R10, R30). -/
abbrev Byte := BitVec 8

/-- The contents of one 32-bit register of the register space (R20). -/
abbrev Word := BitVec 32

/-- Four bytes in buffer order: a column of the cipher state (R180) or a key-schedule word (R184). -/
structure Quad where
  b0 : Byte
  b1 : Byte
  b2 : Byte
  b3 : Byte
  deriving DecidableEq, Repr

/-- Sixteen bytes in buffer order, held as the four columns of R180: byte `r + 4*c` is row `r` of
column `c`. Cipher blocks, round keys and `KEY` are of this type. -/
structure Block where
  c0 : Quad
  c1 : Quad
  c2 : Quad
  c3 : Quad
  deriving DecidableEq, Repr

/-- A DeviceAddress (R8 glossary, R29): manufacturer code, identifier, version and device type. -/
structure DeviceAddress where
  mfr : BitVec 16
  id : BitVec 32
  ver : Byte
  type : Byte
  deriving DecidableEq, Repr

end Sys2Proof
end

