-- ==== Sys2Proof/Syntax.lean ====
section
/-! DEFINITION. The command set of the CORE (R71): one constructor per row of spec/opcode_table.json.
A command word carries no operand (R70); operands are bit fields of the argument registers (R72). -/

namespace Sys2Proof

/-- The 25 commands of R71, in the order of the opcode map. -/
inductive Instr where
  | nop
  | setMode
  | mfrEnc
  | mfrDec
  | cwPack
  | cwUnpack
  | dllBuild
  | dllParse
  | stlBuild
  | stlParse
  | ltlBuild
  | ltlParse
  | crc16
  | phyEncode
  | phyDecode
  | setKey
  | getKey
  | deriveIv
  | encrypt
  | decrypt
  | putRecord
  | getRecord
  | buildMeterFrame
  | accessWindow
  | accessDelay
  deriving DecidableEq, Repr

end Sys2Proof
end

