-- ==== Sys2Proof/WellFormed.lean ====
section
/-! DEFINITION. Which command words are legal, as R73 lists the illegal ones. The check is written from
R73's own ranges, not from the opcode map of R71, so that the two can be held against each other. -/

namespace Sys2Proof

/-- The `RSV` field, bits 31:8 of a command word, must be 0 (R70, R73). -/
def rsvIsZero (w : Word) : Bool := w.extractLsb' 8 24 == 0#24

/-- R73's ranges of unassigned opcodes. -/
def opcUnassigned (opc : Byte) : Bool :=
  let n := opc.toNat
  (0x02 ≤ n && n ≤ 0x0F) || (0x1A ≤ n && n ≤ 0x1F) || (0x21 ≤ n && n ≤ 0x2F) ||
    (0x32 ≤ n && n ≤ 0x3F) || (0x45 ≤ n && n ≤ 0x4F) || (0x55 ≤ n && n ≤ 0xFF)

/-- A legal command word: `RSV` is 0 and `OPC` is assigned (R73). -/
def wordWellFormed (w : Word) : Bool := rsvIsZero w && !opcUnassigned (w.extractLsb' 0 8)

/-- A command of the table is well formed as it stands: it has no field that could hold an illegal
value (R70: "The word carries no operand"). -/
def Instr.wellFormed : Instr → Bool
  | .nop => true
  | .setMode => true
  | .mfrEnc => true
  | .mfrDec => true
  | .cwPack => true
  | .cwUnpack => true
  | .dllBuild => true
  | .dllParse => true
  | .stlBuild => true
  | .stlParse => true
  | .ltlBuild => true
  | .ltlParse => true
  | .crc16 => true
  | .phyEncode => true
  | .phyDecode => true
  | .setKey => true
  | .getKey => true
  | .deriveIv => true
  | .encrypt => true
  | .decrypt => true
  | .putRecord => true
  | .getRecord => true
  | .buildMeterFrame => true
  | .accessWindow => true
  | .accessDelay => true

end Sys2Proof
end

