-- ==== Sys2Proof/Decode.lean ====
section
/-! DEFINITION. Decoding a command word (R70, R71, R73) and encoding a command. A decoder looks at the
32 bits of the word and nothing else. -/

namespace Sys2Proof

/-- Why a command word is illegal (R73). Both reasons end in Unsupported, cause 1. -/
inductive DecodeError where
  /-- The `RSV` field is not 0. -/
  | reservedBitsSet
  /-- `OPC` is not one of the 25 values of R71. -/
  | unassignedOpcode
  deriving DecidableEq, Repr

/-- The command of an opcode (R71). -/
def decodeOpc (opc : Byte) : Except DecodeError Instr :=
  match opc.toNat with
  | 0x00 => .ok .nop
  | 0x01 => .ok .setMode
  | 0x10 => .ok .mfrEnc
  | 0x11 => .ok .mfrDec
  | 0x12 => .ok .cwPack
  | 0x13 => .ok .cwUnpack
  | 0x14 => .ok .dllBuild
  | 0x15 => .ok .dllParse
  | 0x16 => .ok .stlBuild
  | 0x17 => .ok .stlParse
  | 0x18 => .ok .ltlBuild
  | 0x19 => .ok .ltlParse
  | 0x20 => .ok .crc16
  | 0x30 => .ok .phyEncode
  | 0x31 => .ok .phyDecode
  | 0x40 => .ok .setKey
  | 0x41 => .ok .getKey
  | 0x42 => .ok .deriveIv
  | 0x43 => .ok .encrypt
  | 0x44 => .ok .decrypt
  | 0x50 => .ok .putRecord
  | 0x51 => .ok .getRecord
  | 0x52 => .ok .buildMeterFrame
  | 0x53 => .ok .accessWindow
  | 0x54 => .ok .accessDelay
  | _ => .error .unassignedOpcode

/-- The command a 32-bit word written to `CMD` encodes (R70): `OPC` in bits 7:0, `RSV` in bits 31:8. -/
def decode (w : Word) : Except DecodeError Instr :=
  if w.extractLsb' 8 24 ≠ 0#24 then .error .reservedBitsSet
  else decodeOpc (w.extractLsb' 0 8)

/-- The opcode of a command (R71). -/
def opcOf : Instr → Byte
  | .nop => 0x00#8
  | .setMode => 0x01#8
  | .mfrEnc => 0x10#8
  | .mfrDec => 0x11#8
  | .cwPack => 0x12#8
  | .cwUnpack => 0x13#8
  | .dllBuild => 0x14#8
  | .dllParse => 0x15#8
  | .stlBuild => 0x16#8
  | .stlParse => 0x17#8
  | .ltlBuild => 0x18#8
  | .ltlParse => 0x19#8
  | .crc16 => 0x20#8
  | .phyEncode => 0x30#8
  | .phyDecode => 0x31#8
  | .setKey => 0x40#8
  | .getKey => 0x41#8
  | .deriveIv => 0x42#8
  | .encrypt => 0x43#8
  | .decrypt => 0x44#8
  | .putRecord => 0x50#8
  | .getRecord => 0x51#8
  | .buildMeterFrame => 0x52#8
  | .accessWindow => 0x53#8
  | .accessDelay => 0x54#8

/-- The command word of a command: the opcode zero-extended to 32 bits (R71). -/
def encode (i : Instr) : Word := (opcOf i).setWidth 32

/-- The command word made of the low `nbits` bits of `w`, every bit above them 0. The command word is
one 32-bit word, numbered from its least significant bit in the table and in `CMD` alike. -/
def tableWord (nbits w : Nat) : Word := BitVec.ofNat 32 (w % 2 ^ nbits)

/-- The command the decoder reads from an opcode-table row's bits; `none` where it refuses the word. -/
def decodeTableWord (nbits w : Nat) : Option Instr :=
  match decode (tableWord nbits w) with
  | .ok i => some i
  | .error _ => none

end Sys2Proof
end

