-- ==== Sys2Proof/Config.lean ====
section
/-! DEFINITION. What the spec leaves to the implementation, as constants without a body: the parameters of
R7 and the unspecified contents of `BUF` after reset (R33). No proof can see their values. -/

namespace Sys2Proof

/-- How far `BUF_SIZE` lies above 1024. R7 leaves `BUF_SIZE` open between 1024 and 2^24; the type holds
exactly that freedom. -/
opaque Config.bufSizeAbove : Fin (2 ^ 24 - 1024 + 1)

/-- `BUF_SIZE` of this hardware instance (R7, R30). Log entry 3. -/
def Config.bufSize : Nat := 1024 + Config.bufSizeAbove.val

/-- The three letters of the device's manufacturer, 0 for `A` to 25 for `Z` (R29: `DEV_MFR` is a value
of `MfrEnc`). -/
opaque Config.devLetter : Fin 3 → Fin 26

/-- `DEV_MFR`: the code of three letters, each 5 bits with `A` = 1, the first letter in bits 14:10
(R29, R100). Log entry 4. -/
def Config.devMfr : BitVec 16 :=
  BitVec.ofNat 16 (((Config.devLetter 0).val + 1) * 1024 + ((Config.devLetter 1).val + 1) * 32 +
    ((Config.devLetter 2).val + 1))

/-- `DEV_ID` (R7, R29). -/
opaque Config.devId : BitVec 32

/-- `DEV_VER` (R7, R29). -/
opaque Config.devVer : BitVec 8

/-- `DEV_TYPE` (R7, R29). -/
opaque Config.devType : BitVec 8

/-- `AW_START[m][s]` (R7, R205), applied only to the FrameModes S, R2, N-2.4k, N-4.8k and N-19.2k.
Log entry 5. -/
opaque Config.awStart : BitVec 4 → Bool → BitVec 32

/-- `AW_STOP[m][s]` (R7, R205), applied only to the FrameModes S, R2, N-2.4k, N-4.8k and N-19.2k.
Log entry 5. -/
opaque Config.awStop : BitVec 4 → Bool → BitVec 32

/-- What a byte of `BUF` holds after a reset until something writes it (R33: unspecified, any value):
the first argument counts the resets, the second is the address. Log entry 2. -/
opaque Config.bufContents : Nat → Nat → BitVec 8

end Sys2Proof
end

