-- ==== Sys2Proof/Machine/State.lean ====
section
/-! DEFINITION. The state of the CORE (R20), the events that arrive from outside it (R60, R250), the reasons
a step can stop, and the state after reset (R33). -/

namespace Sys2Proof.Machine

/-- A bank of eight 32-bit registers: `A0..A7` (R21) or `V0..V7` (R22). A register not named when a
bank is built is 0, as R22 and R74 say of results. -/
structure Bank where
  r0 : Word := 0#32
  r1 : Word := 0#32
  r2 : Word := 0#32
  r3 : Word := 0#32
  r4 : Word := 0#32
  r5 : Word := 0#32
  r6 : Word := 0#32
  r7 : Word := 0#32
  deriving DecidableEq, Repr

/-- The bytes of `BUF` written since the last reset, as (address, byte) pairs with addresses strictly
rising. An unlisted address has not been written since the last reset. -/
abbrev Memory := List Host.Cell

/-- The width of a HOST access on the bus (R53, R54). -/
inductive AccessSize where
  | byte
  | half
  | word
  deriving DecidableEq, Repr

/-- What can arrive from outside the CORE, each one step (R60, R61, R250). Offsets are byte offsets from
the base of the CORE (R51). A write to offset 0x000 is the issue of a command. -/
inductive Event where
  /-- A HOST write of the low 8, 16 or 32 bits of `value` at a bus offset. -/
  | write (offset : Nat) (size : AccessSize) (value : Word)
  /-- A HOST read at a bus offset. -/
  | read (offset : Nat) (size : AccessSize)
  /-- The reset applied from outside (R250). -/
  | reset
  deriving DecidableEq, Repr

/-- The state: every element of R20, and four fields of the model's own (`bufSize`, `epoch`,
`readData`, `inputs`). -/
structure State where
  /-- `A0..A7`, the argument registers (R21). -/
  a : Bank
  /-- `V0..V7`, the result registers (R22). -/
  v : Bank
  /-- `CMD`, the last command word written (R26). -/
  cmd : Word
  /-- `STATUS` (R24): the status code in bits 7:0. -/
  status : Word
  /-- `ERRINFO` (R25): `CAUSE` in bits 7:0, `INDEX` in bits 23:8. -/
  errinfo : Word
  /-- `MODE`, the selected FrameMode code (R27). -/
  mode : BitVec 4
  /-- `MODE_VALID` (R27). -/
  modeValid : Bool
  /-- `KEY[0..15]`, the AES-128 key (R28). -/
  key : Block
  /-- `KEY_VALID` (R28). -/
  keyValid : Bool
  /-- `DEV_MFR`, `DEV_ID`, `DEV_VER`, `DEV_TYPE`, the fixed device address (R29). -/
  dev : DeviceAddress
  /-- `BUF` (R30), the bytes written since the last reset. -/
  buf : Memory
  /-- `BUF_SIZE` (R7, R30), a parameter no step changes. The model's own field. -/
  bufSize : Nat
  /-- How many resets have happened since `State.reset`; it names which unspecified contents of `BUF`
  the unwritten bytes hold (R33, R250). The model's own field. -/
  epoch : Nat
  /-- The datum the last HOST read returned (R60); it belongs to the HOST's side of the bus. The
  model's own field. -/
  readData : Word
  /-- The events still to arrive, the next one first (R23, R61). The model's own field. -/
  inputs : List Event
  deriving DecidableEq, Repr

/-- Where a step stops. No command stops: every one is a step into a next state (R231). A stop is a HOST
access that R54 and R60 do not count among the HOST's moves; "a model gives it no step". -/
inductive Fault where
  /-- Raised by the bus for an access below offset 0x1000 that is not an aligned 32-bit word
  (R54; 93_implementation_defined.md I12). Safe: the spec gives the access no step. At a reserved offset, where
  the spec leaves it open, this is the model's DESIGN CHOICE (log entry 13), safe too. -/
  | registerAccessNotAlignedWord
  /-- Raised by the bus for an access with a byte at or beyond offset 0x1000 + `BUF_SIZE`
  (R51; 93_implementation_defined.md I11b). Safe: the spec gives the access no step. -/
  | offsetOutsideCore
  /-- Raised by the bus for a 16- or 32-bit access to the buffer window that is not aligned (R60 names
  only an aligned group). Safe: the spec gives the access no step. -/
  | windowAccessMisaligned
  deriving DecidableEq, Repr

/-- Why a step has no meaning. No arm of the machine answers with it. -/
inductive Refusal where
  /-- Raised by the dispatcher for a command that is not modelled. Safe. No command is in that case. -/
  | notModelled (mnemonic : String)
  deriving DecidableEq, Repr

/-- The state after reset (R33, R250). `MODE` and `KEY` hold 0 while invalid (log entry 1); `BUF` has
nothing written (log entry 2); the parameters are those of the instance. -/
def State.reset : State where
  a := {}
  v := {}
  cmd := 0#32
  status := 0#32
  errinfo := 0#32
  mode := 0#4
  modeValid := false
  key := ⟨⟨0#8, 0#8, 0#8, 0#8⟩, ⟨0#8, 0#8, 0#8, 0#8⟩, ⟨0#8, 0#8, 0#8, 0#8⟩, ⟨0#8, 0#8, 0#8, 0#8⟩⟩
  keyValid := false
  dev := ⟨Config.devMfr, Config.devId, Config.devVer, Config.devType⟩
  buf := []
  bufSize := Config.bufSize
  epoch := 0
  readData := 0#32
  inputs := []

end Sys2Proof.Machine
end

