-- ==== Sys2Proof/Machine/Bytes.lean ====
section
/-! DEFINITION. Byte sequences (R10): little-endian encoding, repetition, the sixteen bytes of a block, and
the byte-wise exclusive or. -/

namespace Sys2Proof.Machine

/-- `LE_n(v)`: the `n`-byte little-endian encoding of `v`, taken modulo 2^(8n) (R10). -/
def leBytes : Nat → Nat → List Byte
  | 0, _ => []
  | n + 1, v => BitVec.ofNat 8 v :: leBytes n (v / 256)

/-- `FromLE(X)`: the unsigned value of a little-endian byte sequence (R10). -/
def fromLE : List Byte → Nat
  | [] => 0
  | b :: x => b.toNat + 256 * fromLE x

/-- `rep(b, k)`: `k` copies of a byte (R10). -/
def rep (b : Byte) (k : Nat) : List Byte := List.replicate k b

/-- `ceil(n / 16)` (R9): how many 16-byte blocks `n` bytes need. -/
def ceilDiv16 (n : Nat) : Nat := (n + 15) / 16

/-- Byte `i` of a sequence, 0 beyond its end. -/
def byteAt (x : List Byte) (i : Nat) : Byte := x.getD i 0#8

end Sys2Proof.Machine

namespace Sys2Proof

/-- The four bytes of a quad, in buffer order (R180). -/
def Quad.toBytes (q : Quad) : List Byte := [q.b0, q.b1, q.b2, q.b3]

/-- The sixteen bytes of a block, in buffer order (R180). -/
def Block.toBytes (b : Block) : List Byte :=
  Quad.toBytes b.c0 ++ Quad.toBytes b.c1 ++ Quad.toBytes b.c2 ++ Quad.toBytes b.c3

/-- The quad whose bytes are `x[i], .., x[i+3]`. -/
def Quad.ofBytes (x : List Byte) (i : Nat) : Quad :=
  ⟨Machine.byteAt x i, Machine.byteAt x (i + 1), Machine.byteAt x (i + 2), Machine.byteAt x (i + 3)⟩

/-- The block of the first sixteen bytes of a sequence (R180: byte `i` goes to row `i mod 4`, column
`i div 4`). -/
def Block.ofBytes (x : List Byte) : Block :=
  ⟨Quad.ofBytes x 0, Quad.ofBytes x 4, Quad.ofBytes x 8, Quad.ofBytes x 12⟩

/-- Byte-wise exclusive or of two quads (R184). -/
def Quad.xor (p q : Quad) : Quad :=
  ⟨p.b0 ^^^ q.b0, p.b1 ^^^ q.b1, p.b2 ^^^ q.b2, p.b3 ^^^ q.b3⟩

/-- Byte-wise exclusive or of two blocks (R166, R185). -/
def Block.xor (p q : Block) : Block :=
  ⟨Quad.xor p.c0 q.c0, Quad.xor p.c1 q.c1, Quad.xor p.c2 q.c2, Quad.xor p.c3 q.c3⟩

end Sys2Proof
end

