-- ==== Sys2Proof/Machine/Flags.lean ====
section
/-! DEFINITION. The condition flags of the CORE: the status codes (R221), every failure it can report with
its cause (R222), and the words `STATUS` and `ERRINFO` hold (R24, R25). -/

namespace Sys2Proof.Machine

/-- The six status codes of R221. -/
inductive Status where
  | ok
  | bufferTooSmall
  | invalidFraming
  | cryptoInputInvalid
  | configInconsistent
  | unsupported
  deriving DecidableEq, Repr

/-- The number of a status code (R221). -/
def Status.code : Status → BitVec 8
  | .ok => 0#8
  | .bufferTooSmall => 1#8
  | .invalidFraming => 2#8
  | .cryptoInputInvalid => 3#8
  | .configInconsistent => 4#8
  | .unsupported => 5#8

/-- Every `(status, cause)` pair the CORE can write, one constructor per row of R222. -/
inductive Failure where
  /-- BufferTooSmall 1: the capacity of a destination is smaller than the output. -/
  | bufferTooSmall
  /-- InvalidFraming 1: a 6-bit code of the block is not a table entry. -/
  | invalidCode (block : Nat)
  /-- InvalidFraming 2: the CRC of the decoded block does not match. -/
  | crcMismatch (block : Nat)
  /-- InvalidFraming 3: the encoded length is not `EncLen(n)` for any `n` of 1..256. -/
  | encodedLength
  /-- CryptoInputInvalid 1: an address operand of the Security Layer is `NULL`. -/
  | nullAddress
  /-- CryptoInputInvalid 2: a length, capacity or count operand of the Security Layer is 0. -/
  | zeroLength
  /-- CryptoInputInvalid 3: the key is needed and `KEY_VALID` = 0. -/
  | keyNotSet
  /-- CryptoInputInvalid 4: a key or IV length is not 16, or a ciphertext length no multiple of 16. -/
  | wrongLength
  /-- CryptoInputInvalid 5: the explicit block count is too small for the plaintext. -/
  | blockCountTooSmall
  /-- ConfigInconsistent 1: the computed `lField` is outside 0..255. -/
  | lFieldOverflow
  /-- ConfigInconsistent 2: `numOfEncBlocks` does not fit the payload, or the count exceeds 15. -/
  | encBlocksMismatch
  /-- Unsupported 1: `RSV` is not 0 or `OPC` is unassigned. -/
  | illegalWord
  /-- Unsupported 2: a reserved operand value. -/
  | reservedOperand
  /-- Unsupported 3: a range fails `InBuf`. -/
  | outOfRange
  /-- Unsupported 4: a forbidden overlap. -/
  | overlap
  /-- Unsupported 5: a security mode other than 0 or 5. -/
  | securityMode
  /-- Unsupported 6: a DIF form that is not supported. -/
  | difForm
  /-- Unsupported 7: `MODE_VALID` = 0 and the command needs `MODE`. -/
  | modeNotSet
  /-- Unsupported 8: a length outside the supported range. -/
  | lengthRange
  deriving DecidableEq, Repr

/-- The status code a failure reports (R222). -/
def Failure.status : Failure → Status
  | .bufferTooSmall => .bufferTooSmall
  | .invalidCode _ => .invalidFraming
  | .crcMismatch _ => .invalidFraming
  | .encodedLength => .invalidFraming
  | .nullAddress => .cryptoInputInvalid
  | .zeroLength => .cryptoInputInvalid
  | .keyNotSet => .cryptoInputInvalid
  | .wrongLength => .cryptoInputInvalid
  | .blockCountTooSmall => .cryptoInputInvalid
  | .lFieldOverflow => .configInconsistent
  | .encBlocksMismatch => .configInconsistent
  | .illegalWord => .unsupported
  | .reservedOperand => .unsupported
  | .outOfRange => .unsupported
  | .overlap => .unsupported
  | .securityMode => .unsupported
  | .difForm => .unsupported
  | .modeNotSet => .unsupported
  | .lengthRange => .unsupported

/-- The cause number of a failure (R222). -/
def Failure.cause : Failure → BitVec 8
  | .bufferTooSmall => 1#8
  | .invalidCode _ => 1#8
  | .crcMismatch _ => 2#8
  | .encodedLength => 3#8
  | .nullAddress => 1#8
  | .zeroLength => 2#8
  | .keyNotSet => 3#8
  | .wrongLength => 4#8
  | .blockCountTooSmall => 5#8
  | .lFieldOverflow => 1#8
  | .encBlocksMismatch => 2#8
  | .illegalWord => 1#8
  | .reservedOperand => 2#8
  | .outOfRange => 3#8
  | .overlap => 4#8
  | .securityMode => 5#8
  | .difForm => 6#8
  | .modeNotSet => 7#8
  | .lengthRange => 8#8

/-- `ERRINFO.INDEX` of a failure: the block a framing failure was found in, 0 for every other (R25). -/
def Failure.index : Failure → BitVec 16
  | .invalidCode b => BitVec.ofNat 16 b
  | .crcMismatch b => BitVec.ofNat 16 b
  | _ => 0#16

/-- The word `STATUS` holds for a status code: the code in bits 7:0, bits 31:8 read 0 (R24). -/
def statusWord (st : Status) : Word := st.code.setWidth 32

/-- The word `ERRINFO` holds: `CAUSE` in bits 7:0, `INDEX` in bits 23:8, bits 31:24 read 0 (R25). -/
def errinfoWord (cause : BitVec 8) (index : BitVec 16) : Word := 0#8 ++ index ++ cause

/-- The word `ERRINFO` holds for a failure (R25, R220). -/
def Failure.errinfo (f : Failure) : Word := errinfoWord f.cause f.index

/-- Bits 7:0 of `STATUS`, the status code (R24). -/
def State.statusCode (s : State) : BitVec 8 := s.status.extractLsb' 0 8

/-- `ERRINFO.CAUSE` (R25). -/
def State.errCause (s : State) : BitVec 8 := s.errinfo.extractLsb' 0 8

/-- `ERRINFO.INDEX` (R25). -/
def State.errIndex (s : State) : BitVec 16 := s.errinfo.extractLsb' 8 16

end Sys2Proof.Machine
end

