-- ==== Sys2Proof/Machine/Ops.lean ====
section
/-! DEFINITION. The named operations of the CORE: the register banks, the buffer memory (R59), the range and
overlap rules (R56, R57), and the two ways a command ends (R220): `raise` and `done`. -/

namespace Sys2Proof.Machine

/-- Register `i` of a bank (R21, R22). -/
def Bank.get (b : Bank) (i : Fin 8) : Word :=
  match i with
  | 0 => b.r0
  | 1 => b.r1
  | 2 => b.r2
  | 3 => b.r3
  | 4 => b.r4
  | 5 => b.r5
  | 6 => b.r6
  | 7 => b.r7

/-- The bank with register `i` replaced (R21). -/
def Bank.set (b : Bank) (i : Fin 8) (w : Word) : Bank :=
  match i with
  | 0 => { b with r0 := w }
  | 1 => { b with r1 := w }
  | 2 => { b with r2 := w }
  | 3 => { b with r3 := w }
  | 4 => { b with r4 := w }
  | 5 => { b with r5 := w }
  | 6 => { b with r6 := w }
  | 7 => { b with r7 := w }

/-! ### The buffer memory -/

/-- The canonical form of a memory: addresses strictly rising. An unlisted address reads as no written
byte (`none`), which no entry equals, so two memories with the same written bytes are the same list. -/
abbrev Memory.wf (m : Memory) : Prop := m.Pairwise (fun x y => x.1 < y.1)

/-- The byte written at an address since the last reset, if any. -/
def memLookup : Memory → Nat → Option Byte
  | [], _ => none
  | (k, b) :: m, a => if k = a then some b else memLookup m a

/-- The memory with one byte written, its addresses still strictly rising. -/
def memInsert : Memory → Nat → Byte → Memory
  | [], a, b => [(a, b)]
  | (k, c) :: m, a, b =>
    if a < k then (a, b) :: (k, c) :: m
    else if a = k then (a, b) :: m
    else (k, c) :: memInsert m a b

/-- The memory with the bytes of `x` written from address `a` up. -/
def memWriteBytes : Memory → Nat → List Byte → Memory
  | m, _, [] => m
  | m, a, b :: x => memWriteBytes (memInsert m a b) (a + 1) x

/-- `BUF[a]`. A byte that nothing has written since the last reset holds an unspecified value (R33). -/
def State.readByte (s : State) (a : Nat) : Byte :=
  match memLookup s.buf a with
  | some b => b
  | none => Config.bufContents s.epoch a

/-- `MemRead(addr, n)` (R59). -/
def State.memRead (s : State) : Nat → Nat → List Byte
  | _, 0 => []
  | a, n + 1 => s.readByte a :: s.memRead (a + 1) n

/-- `MemWrite(addr, len(X), X)` (R59). -/
def State.memWrite (s : State) (a : Nat) (x : List Byte) : State :=
  { s with buf := memWriteBytes s.buf a x }

/-! ### Ranges, the null address and overlap -/

/-- `NULL`, the buffer address 0xFFFFFFFF (R58). -/
def nullAddr : Word := 0xFFFFFFFF#32

/-- `InBuf(p, n)` (R56). When `n = 0` the address is not looked at. -/
def State.inBuf (s : State) (p : Word) (n : Nat) : Bool :=
  n == 0 || (p != nullAddr && decide (p.toNat + n ≤ s.bufSize))

/-- `Overlap(p1, n1, p2, n2)` (R57). -/
def overlap (p1 : Word) (n1 : Nat) (p2 : Word) (n2 : Nat) : Bool :=
  decide (n1 > 0) && decide (n2 > 0) && decide (p1.toNat < p2.toNat + n2) &&
    decide (p2.toNat < p1.toNat + n1)

/-! ### How a command ends -/

/-- `raise S(c, i)` (R11, R220): the one way a command fails. `STATUS` and `ERRINFO` report the failure,
every result register is 0 unless the command's rule leaves results `v` behind (R149), and nothing else
changes. Nothing is saved and nothing is vectored; there is no return from it (R226). -/
def State.raise (s : State) (f : Failure) (v : Bank := {}) : State :=
  { s with v := v, status := statusWord f.status, errinfo := f.errinfo }

/-- `done` (R11, R74): the one way a command succeeds. `STATUS` is OK, `ERRINFO` is 0, the result
registers hold `v` (every register the rule does not name is 0). -/
def State.done (s : State) (v : Bank) : State :=
  { s with v := v, status := statusWord .ok, errinfo := 0#32 }

/-- The first check that fails (R223): each check is the condition that fails it and the failure it
reports; later checks are not made. -/
def firstFailure : List (Bool × Failure) → Option Failure
  | [] => none
  | (fails, f) :: rest => if fails then some f else firstFailure rest

/-- A command with the checks `checks`, in order, and the effect `effect` when all of them pass (R12,
R223). -/
def State.checked (s : State) (checks : List (Bool × Failure)) (effect : Unit → State) : State :=
  match firstFailure checks with
  | some f => s.raise f
  | none => effect ()

/-- `trunc_32` of an unsigned value (R9): how a number is stored in a result register (R11). -/
def trunc32 (n : Nat) : Word := BitVec.ofNat 32 n

/-! ### Configuration state -/

/-- `MODE <- m; MODE_VALID <- 1` (R91). -/
def State.setMode (s : State) (m : BitVec 4) : State := { s with mode := m, modeValid := true }

/-- `KEY <- k; KEY_VALID <- 1` (R161). -/
def State.setKey (s : State) (k : Block) : State := { s with key := k, keyValid := true }

end Sys2Proof.Machine
end

