-- ==== Sys2Proof/Machine/Bus.lean ====
section
/-! DEFINITION. The HOST's side of the CORE: the bus map (R51), the accesses that are moves of the HOST (R54,
R60), their effect, and the reset event (R250). -/

namespace Sys2Proof.Machine

/-- How many bytes an access moves. -/
def AccessSize.bytes : AccessSize → Nat
  | .byte => 1
  | .half => 2
  | .word => 4

/-- The offset of the buffer window (R51). -/
def windowBase : Nat := 0x1000

/-- The offset of `CMD` (R51). -/
def cmdOffset : Nat := 0x000

/-- Why an access is no move of the HOST (R54, R60; 93_implementation_defined.md I11b, I12); `none` for a
move. Log entry 8. DESIGN CHOICE: an access to a reserved offset (0x060..0xFFF) that is not an aligned 32-bit word
is no move either, though the spec does not say whether R54 or the reserved row of R51 rules it; safe, log
entry 13. -/
def accessProblem (s : State) (offset : Nat) (size : AccessSize) : Option Fault :=
  if offset < windowBase then
    if size = .word ∧ offset % 4 = 0 then none else some .registerAccessNotAlignedWord
  else if offset - windowBase + size.bytes > s.bufSize then some .offsetOutsideCore
  else if (offset - windowBase) % size.bytes ≠ 0 then some .windowAccessMisaligned
  else none

/-- `MODESTAT` (R27, R51): bits 3:0 `MODE`, 0 while invalid; bit 8 `MODE_VALID`. -/
def State.modestat (s : State) : Word :=
  if s.modeValid then 0x100#32 ||| s.mode.setWidth 32 else 0#32

/-- `KEYSTAT` (R28, R51): bit 0 `KEY_VALID`. -/
def State.keystat (s : State) : Word := if s.keyValid then 1#32 else 0#32

/-- `DEV_VT` (R29, R51): bits 7:0 the version, bits 15:8 the device type. -/
def State.devVt (s : State) : Word := 0#16 ++ s.dev.type ++ s.dev.ver

/-- The word at an aligned offset of the register space (R51); a reserved offset reads 0. -/
def State.registerAt (s : State) (offset : Nat) : Word :=
  if offset = 0x000 then s.cmd
  else if offset = 0x004 then s.status
  else if offset = 0x008 then s.errinfo
  else if offset = 0x00C then s.modestat
  else if offset = 0x010 then s.keystat
  else if offset = 0x014 then s.dev.mfr.setWidth 32
  else if offset = 0x018 then s.dev.id
  else if offset = 0x01C then s.devVt
  else if offset < 0x040 then s.a.get (Fin.ofNat 8 ((offset - 0x020) / 4))
  else if offset < 0x060 then s.v.get (Fin.ofNat 8 ((offset - 0x040) / 4))
  else 0#32

/-- The datum of a HOST read (R51, R53): a register, or a little-endian group of buffer bytes,
zero-extended. -/
def State.busRead (s : State) (offset : Nat) (size : AccessSize) : Word :=
  if offset < windowBase then s.registerAt offset
  else trunc32 (fromLE (s.memRead (offset - windowBase) size.bytes))

/-- The effect of a HOST write other than to `CMD` (R51, R53): `A0..A7` take the value, the buffer window
takes its low bytes little-endian, and a write to a read-only or reserved offset is ignored. -/
def State.busWrite (s : State) (offset : Nat) (size : AccessSize) (value : Word) : State :=
  if offset < windowBase then
    if 0x020 ≤ offset ∧ offset < 0x040 then
      { s with a := s.a.set (Fin.ofNat 8 ((offset - 0x020) / 4)) value }
    else s
  else s.memWrite (offset - windowBase) (leBytes size.bytes value.toNat)

/-- The reset event (R250): the values of R33, the constants kept, the contents of `BUF` unspecified
anew. What is still to arrive from outside, and the datum the HOST has already read, are the HOST's. -/
def State.resetEvent (s : State) : State :=
  { State.reset with
    dev := s.dev, bufSize := s.bufSize, epoch := s.epoch + 1, readData := s.readData,
    inputs := s.inputs }

/-- What an event asks of the machine: nothing the spec gives a step to, a step without a command, or
the execution of a command word. -/
inductive Move where
  | stuck (f : Fault)
  | plain (s : State)
  | issue (w : Word)
  deriving DecidableEq, Repr

/-- The move of an event (R60, R250). A write to `CMD` issues the word written. -/
def eventMove (s : State) : Event → Move
  | .reset => .plain s.resetEvent
  | .read offset size =>
    match accessProblem s offset size with
    | some f => .stuck f
    | none => .plain { s with readData := s.busRead offset size }
  | .write offset size value =>
    match accessProblem s offset size with
    | some f => .stuck f
    | none => if offset = cmdOffset then .issue value else .plain (s.busWrite offset size value)

/-- An illegal command word (R73): Unsupported, cause 1, and no other effect. -/
def execIllegal (s : State) : Host.Outcome State Fault Refusal := .next (s.raise .illegalWord)

end Sys2Proof.Machine
end

