-- ==== Sys2Proof/Machine/Aes.lean ====
section
/-! DEFINITION. The AES-128 block cipher core (spec/45_aes128_core.md). -/

namespace Sys2Proof.Machine

/-! ### Field arithmetic (R181) -/

/-- `xtime(a)`: multiplication by x modulo 0x11B. -/
def xtime (a : Byte) : Byte := (a <<< 1) ^^^ (if a.getLsbD 7 then 0x1B#8 else 0x00#8)

def mul2 (a : Byte) : Byte := xtime a
def mul3 (a : Byte) : Byte := xtime a ^^^ a
def mul4 (a : Byte) : Byte := xtime (xtime a)
def mul8 (a : Byte) : Byte := xtime (mul4 a)
def mul9 (a : Byte) : Byte := mul8 a ^^^ a
def mul11 (a : Byte) : Byte := mul8 a ^^^ mul2 a ^^^ a
def mul13 (a : Byte) : Byte := mul8 a ^^^ mul4 a ^^^ a
def mul14 (a : Byte) : Byte := mul8 a ^^^ mul4 a ^^^ mul2 a

/-! ### Substitution tables (R182, R183): a row per high nibble, an entry per low nibble -/

/-- The table of `Sbox` (R182). -/
def sboxRows : List (List Nat) :=
  [[0x63, 0x7C, 0x77, 0x7B, 0xF2, 0x6B, 0x6F, 0xC5, 0x30, 0x01, 0x67, 0x2B, 0xFE, 0xD7, 0xAB, 0x76],
    [0xCA, 0x82, 0xC9, 0x7D, 0xFA, 0x59, 0x47, 0xF0, 0xAD, 0xD4, 0xA2, 0xAF, 0x9C, 0xA4, 0x72, 0xC0],
    [0xB7, 0xFD, 0x93, 0x26, 0x36, 0x3F, 0xF7, 0xCC, 0x34, 0xA5, 0xE5, 0xF1, 0x71, 0xD8, 0x31, 0x15],
    [0x04, 0xC7, 0x23, 0xC3, 0x18, 0x96, 0x05, 0x9A, 0x07, 0x12, 0x80, 0xE2, 0xEB, 0x27, 0xB2, 0x75],
    [0x09, 0x83, 0x2C, 0x1A, 0x1B, 0x6E, 0x5A, 0xA0, 0x52, 0x3B, 0xD6, 0xB3, 0x29, 0xE3, 0x2F, 0x84],
    [0x53, 0xD1, 0x00, 0xED, 0x20, 0xFC, 0xB1, 0x5B, 0x6A, 0xCB, 0xBE, 0x39, 0x4A, 0x4C, 0x58, 0xCF],
    [0xD0, 0xEF, 0xAA, 0xFB, 0x43, 0x4D, 0x33, 0x85, 0x45, 0xF9, 0x02, 0x7F, 0x50, 0x3C, 0x9F, 0xA8],
    [0x51, 0xA3, 0x40, 0x8F, 0x92, 0x9D, 0x38, 0xF5, 0xBC, 0xB6, 0xDA, 0x21, 0x10, 0xFF, 0xF3, 0xD2]] ++
  [[0xCD, 0x0C, 0x13, 0xEC, 0x5F, 0x97, 0x44, 0x17, 0xC4, 0xA7, 0x7E, 0x3D, 0x64, 0x5D, 0x19, 0x73],
    [0x60, 0x81, 0x4F, 0xDC, 0x22, 0x2A, 0x90, 0x88, 0x46, 0xEE, 0xB8, 0x14, 0xDE, 0x5E, 0x0B, 0xDB],
    [0xE0, 0x32, 0x3A, 0x0A, 0x49, 0x06, 0x24, 0x5C, 0xC2, 0xD3, 0xAC, 0x62, 0x91, 0x95, 0xE4, 0x79],
    [0xE7, 0xC8, 0x37, 0x6D, 0x8D, 0xD5, 0x4E, 0xA9, 0x6C, 0x56, 0xF4, 0xEA, 0x65, 0x7A, 0xAE, 0x08],
    [0xBA, 0x78, 0x25, 0x2E, 0x1C, 0xA6, 0xB4, 0xC6, 0xE8, 0xDD, 0x74, 0x1F, 0x4B, 0xBD, 0x8B, 0x8A],
    [0x70, 0x3E, 0xB5, 0x66, 0x48, 0x03, 0xF6, 0x0E, 0x61, 0x35, 0x57, 0xB9, 0x86, 0xC1, 0x1D, 0x9E],
    [0xE1, 0xF8, 0x98, 0x11, 0x69, 0xD9, 0x8E, 0x94, 0x9B, 0x1E, 0x87, 0xE9, 0xCE, 0x55, 0x28, 0xDF],
    [0x8C, 0xA1, 0x89, 0x0D, 0xBF, 0xE6, 0x42, 0x68, 0x41, 0x99, 0x2D, 0x0F, 0xB0, 0x54, 0xBB, 0x16]]

/-- The table of `InvSbox` (R183). -/
def invSboxRows : List (List Nat) :=
  [[0x52, 0x09, 0x6A, 0xD5, 0x30, 0x36, 0xA5, 0x38, 0xBF, 0x40, 0xA3, 0x9E, 0x81, 0xF3, 0xD7, 0xFB],
    [0x7C, 0xE3, 0x39, 0x82, 0x9B, 0x2F, 0xFF, 0x87, 0x34, 0x8E, 0x43, 0x44, 0xC4, 0xDE, 0xE9, 0xCB],
    [0x54, 0x7B, 0x94, 0x32, 0xA6, 0xC2, 0x23, 0x3D, 0xEE, 0x4C, 0x95, 0x0B, 0x42, 0xFA, 0xC3, 0x4E],
    [0x08, 0x2E, 0xA1, 0x66, 0x28, 0xD9, 0x24, 0xB2, 0x76, 0x5B, 0xA2, 0x49, 0x6D, 0x8B, 0xD1, 0x25],
    [0x72, 0xF8, 0xF6, 0x64, 0x86, 0x68, 0x98, 0x16, 0xD4, 0xA4, 0x5C, 0xCC, 0x5D, 0x65, 0xB6, 0x92],
    [0x6C, 0x70, 0x48, 0x50, 0xFD, 0xED, 0xB9, 0xDA, 0x5E, 0x15, 0x46, 0x57, 0xA7, 0x8D, 0x9D, 0x84],
    [0x90, 0xD8, 0xAB, 0x00, 0x8C, 0xBC, 0xD3, 0x0A, 0xF7, 0xE4, 0x58, 0x05, 0xB8, 0xB3, 0x45, 0x06],
    [0xD0, 0x2C, 0x1E, 0x8F, 0xCA, 0x3F, 0x0F, 0x02, 0xC1, 0xAF, 0xBD, 0x03, 0x01, 0x13, 0x8A, 0x6B]] ++
  [[0x3A, 0x91, 0x11, 0x41, 0x4F, 0x67, 0xDC, 0xEA, 0x97, 0xF2, 0xCF, 0xCE, 0xF0, 0xB4, 0xE6, 0x73],
    [0x96, 0xAC, 0x74, 0x22, 0xE7, 0xAD, 0x35, 0x85, 0xE2, 0xF9, 0x37, 0xE8, 0x1C, 0x75, 0xDF, 0x6E],
    [0x47, 0xF1, 0x1A, 0x71, 0x1D, 0x29, 0xC5, 0x89, 0x6F, 0xB7, 0x62, 0x0E, 0xAA, 0x18, 0xBE, 0x1B],
    [0xFC, 0x56, 0x3E, 0x4B, 0xC6, 0xD2, 0x79, 0x20, 0x9A, 0xDB, 0xC0, 0xFE, 0x78, 0xCD, 0x5A, 0xF4],
    [0x1F, 0xDD, 0xA8, 0x33, 0x88, 0x07, 0xC7, 0x31, 0xB1, 0x12, 0x10, 0x59, 0x27, 0x80, 0xEC, 0x5F],
    [0x60, 0x51, 0x7F, 0xA9, 0x19, 0xB5, 0x4A, 0x0D, 0x2D, 0xE5, 0x7A, 0x9F, 0x93, 0xC9, 0x9C, 0xEF],
    [0xA0, 0xE0, 0x3B, 0x4D, 0xAE, 0x2A, 0xF5, 0xB0, 0xC8, 0xEB, 0xBB, 0x3C, 0x83, 0x53, 0x99, 0x61],
    [0x17, 0x2B, 0x04, 0x7E, 0xBA, 0x77, 0xD6, 0x26, 0xE1, 0x69, 0x14, 0x63, 0x55, 0x21, 0x0C, 0x7D]]

/-- The entry of a 16 by 16 table for a byte: its high nibble selects the row, its low nibble the
column (R182). -/
def tableEntry (rows : List (List Nat)) (v : Byte) : Byte :=
  BitVec.ofNat 8 ((rows.getD (v.toNat / 16) []).getD (v.toNat % 16) 0)

/-- `Sbox[v]` (R182). -/
def sbox (v : Byte) : Byte := tableEntry sboxRows v

/-- `InvSbox[v]` (R183). -/
def invSbox (v : Byte) : Byte := tableEntry invSboxRows v

/-! ### Key expansion (R184) -/

/-- `Rcon[j]` for `j` in 1..10. -/
def rcon (j : Nat) : Byte :=
  [0x01#8, 0x02#8, 0x04#8, 0x08#8, 0x10#8, 0x20#8, 0x40#8, 0x80#8, 0x1B#8, 0x36#8].getD (j - 1) 0x00#8

/-- RotWord: `[t[1], t[2], t[3], t[0]]`. -/
def rotWord (t : Quad) : Quad := ⟨t.b1, t.b2, t.b3, t.b0⟩

/-- SubWord: the S-box on each byte. -/
def subWord (t : Quad) : Quad := ⟨sbox t.b0, sbox t.b1, sbox t.b2, sbox t.b3⟩

/-- The round key `j` that follows round key `j - 1`: the four words `w[4j..4j+3]` of the key schedule,
each `w[i-4] xor t`, with `t` the preceding word and, for the first of them, RotWord, SubWord and
`Rcon[j]` applied to it. -/
def nextRoundKey (j : Nat) (k : Block) : Block :=
  let w0 := k.c0.xor ((subWord (rotWord k.c3)).xor ⟨rcon j, 0#8, 0#8, 0#8⟩)
  let w1 := k.c1.xor w0
  let w2 := k.c2.xor w1
  let w3 := k.c3.xor w2
  ⟨w0, w1, w2, w3⟩

/-- Round key `j` of the key `k`, `j` in 0..10; round key 0 is the key itself. -/
def roundKey (k : Block) : Nat → Block
  | 0 => k
  | j + 1 => nextRoundKey (j + 1) (roundKey k j)

/-! ### Round transformations (R185, R186) -/

/-- A substitution on every byte of the state. -/
def mapBytes (f : Byte → Byte) (s : Block) : Block :=
  ⟨⟨f s.c0.b0, f s.c0.b1, f s.c0.b2, f s.c0.b3⟩, ⟨f s.c1.b0, f s.c1.b1, f s.c1.b2, f s.c1.b3⟩,
    ⟨f s.c2.b0, f s.c2.b1, f s.c2.b2, f s.c2.b3⟩, ⟨f s.c3.b0, f s.c3.b1, f s.c3.b2, f s.c3.b3⟩⟩

/-- A transformation on every column of the state. -/
def mapColumns (f : Quad → Quad) (s : Block) : Block := ⟨f s.c0, f s.c1, f s.c2, f s.c3⟩

/-- SubBytes (R185). -/
def subBytes (s : Block) : Block := mapBytes sbox s

/-- InvSubBytes (R186). -/
def invSubBytes (s : Block) : Block := mapBytes invSbox s

/-- ShiftRows (R185): row `r` rotated left by `r` columns. -/
def shiftRows (s : Block) : Block :=
  ⟨⟨s.c0.b0, s.c1.b1, s.c2.b2, s.c3.b3⟩, ⟨s.c1.b0, s.c2.b1, s.c3.b2, s.c0.b3⟩,
    ⟨s.c2.b0, s.c3.b1, s.c0.b2, s.c1.b3⟩, ⟨s.c3.b0, s.c0.b1, s.c1.b2, s.c2.b3⟩⟩

/-- InvShiftRows (R186): row `r` rotated right by `r` columns. -/
def invShiftRows (s : Block) : Block :=
  ⟨⟨s.c0.b0, s.c3.b1, s.c2.b2, s.c1.b3⟩, ⟨s.c1.b0, s.c0.b1, s.c3.b2, s.c2.b3⟩,
    ⟨s.c2.b0, s.c1.b1, s.c0.b2, s.c3.b3⟩, ⟨s.c3.b0, s.c2.b1, s.c1.b2, s.c0.b3⟩⟩

/-- MixColumns on one column (R185). -/
def mixColumn (q : Quad) : Quad :=
  ⟨mul2 q.b0 ^^^ mul3 q.b1 ^^^ q.b2 ^^^ q.b3, q.b0 ^^^ mul2 q.b1 ^^^ mul3 q.b2 ^^^ q.b3,
    q.b0 ^^^ q.b1 ^^^ mul2 q.b2 ^^^ mul3 q.b3, mul3 q.b0 ^^^ q.b1 ^^^ q.b2 ^^^ mul2 q.b3⟩

/-- InvMixColumns on one column (R186). -/
def invMixColumn (q : Quad) : Quad :=
  ⟨mul14 q.b0 ^^^ mul11 q.b1 ^^^ mul13 q.b2 ^^^ mul9 q.b3,
    mul9 q.b0 ^^^ mul14 q.b1 ^^^ mul11 q.b2 ^^^ mul13 q.b3,
    mul13 q.b0 ^^^ mul9 q.b1 ^^^ mul14 q.b2 ^^^ mul11 q.b3,
    mul11 q.b0 ^^^ mul13 q.b1 ^^^ mul9 q.b2 ^^^ mul14 q.b3⟩

/-- MixColumns (R185). -/
def mixColumns (s : Block) : Block := mapColumns mixColumn s

/-- InvMixColumns (R186). -/
def invMixColumns (s : Block) : Block := mapColumns invMixColumn s

/-- AddRoundKey(j) (R185). -/
def addRoundKey (k : Block) (j : Nat) (s : Block) : Block := s.xor (roundKey k j)

/-! ### The cipher and its inverse (R187) -/

/-- Rounds 1 to `j` of encryption, each with MixColumns. -/
def encRounds (k : Block) : Nat → Block → Block
  | 0, s => s
  | j + 1, s => addRoundKey k (j + 1) (mixColumns (shiftRows (subBytes (encRounds k j s))))

/-- Rounds `j` down to 1 of decryption, each with InvMixColumns. -/
def decRounds (k : Block) : Nat → Block → Block
  | 0, s => s
  | j + 1, s => decRounds k j (invMixColumns (addRoundKey k (j + 1) (invSubBytes (invShiftRows s))))

/-- `AesEnc(K, B)` (R187). -/
def aesEnc (k b : Block) : Block :=
  addRoundKey k 10 (shiftRows (subBytes (encRounds k 9 (addRoundKey k 0 b))))

/-- `AesDec(K, B)` (R187). -/
def aesDec (k b : Block) : Block :=
  addRoundKey k 0 (invSubBytes (invShiftRows (decRounds k 9 (addRoundKey k 10 b))))

end Sys2Proof.Machine
end

