-- ==== Sys2Proof/Machine/Cipher.lean ====
section
/-! DEFINITION. The pure functions of the Security Layer (spec/44_security.md): the derived initialisation
vector, the 0x2F padding, and cipher-block chaining over AES-128. -/

namespace Sys2Proof.Machine

/-- The eight address bytes of a DLL header and of the derived IV: manufacturer, identifier, version,
device type (R106, R163). -/
def addressBytes (d : DeviceAddress) : List Byte :=
  leBytes 2 d.mfr.toNat ++ leBytes 4 d.id.toNat ++ [d.ver, d.type]

/-- `DeriveIv(mfr, id, ver, type, acc)` (R163): the address, then the access number eight times. -/
def deriveIv (d : DeviceAddress) (acc : Byte) : List Byte := addressBytes d ++ rep acc 8

/-- `Pad(P, bc)` (R165): 0x2F up to `bc` whole blocks. -/
def pad (p : List Byte) (bc : Nat) : List Byte := p ++ rep 0x2F#8 (16 * bc - p.length)

/-- The first `bc` blocks of `CbcEncrypt(K, iv, Q)` (R166). -/
def cbcEncryptBlocks (k : Block) : Nat → Block → List Byte → List Byte
  | 0, _, _ => []
  | bc + 1, prev, q =>
    let c := aesEnc k ((Block.ofBytes q).xor prev)
    c.toBytes ++ cbcEncryptBlocks k bc c (q.drop 16)

/-- The first `bc` blocks of `CbcDecrypt(K, iv, C)` (R168). -/
def cbcDecryptBlocks (k : Block) : Nat → Block → List Byte → List Byte
  | 0, _, _ => []
  | bc + 1, prev, c =>
    ((aesDec k (Block.ofBytes c)).xor prev).toBytes ++
      cbcDecryptBlocks k bc (Block.ofBytes c) (c.drop 16)

/-- `CbcEncrypt(K, iv, Q)` (R166), for `Q` of a whole number of blocks. -/
def cbcEncrypt (k : Block) (iv q : List Byte) : List Byte :=
  cbcEncryptBlocks k (q.length / 16) (Block.ofBytes iv) q

/-- `CbcDecrypt(K, iv, C)` (R168), for `C` of a whole number of blocks. -/
def cbcDecrypt (k : Block) (iv c : List Byte) : List Byte :=
  cbcDecryptBlocks k (c.length / 16) (Block.ofBytes iv) c

end Sys2Proof.Machine
end

