-- ==== Sys2Proof/Machine/Operands.lean ====
section
/-! DEFINITION. Operand assembly (R72): each command's operands, as the bit fields of the argument registers
its rule names. Bits no rule names are dropped here and nowhere else. -/

namespace Sys2Proof.Machine

/-- SET_MODE (R91). -/
def setModeOperand (a : Bank) : BitVec 4 := a.r0.extractLsb' 0 4

/-- The three letters of MFR_ENC (R101). -/
structure Letters where
  l1 : Byte
  l2 : Byte
  l3 : Byte
  deriving DecidableEq, Repr

def mfrEncOperands (a : Bank) : Letters where
  l1 := a.r0.extractLsb' 0 8
  l2 := a.r0.extractLsb' 8 8
  l3 := a.r0.extractLsb' 16 8

/-- MFR_DEC (R102). -/
def mfrDecOperand (a : Bank) : BitVec 16 := a.r0.extractLsb' 0 16

/-- The fields of a configuration word (R103), the operands of CW_PACK. -/
structure CwFields where
  hop : BitVec 1
  rep : BitVec 1
  content : BitVec 2
  nblk : BitVec 4
  mode : BitVec 5
  sync : BitVec 1
  acc : BitVec 2
  deriving DecidableEq, Repr

/-- CW_PACK (R104). -/
def cwPackOperands (a : Bank) : CwFields where
  hop := a.r0.extractLsb' 0 1
  rep := a.r1.extractLsb' 0 1
  content := a.r2.extractLsb' 0 2
  nblk := a.r3.extractLsb' 0 4
  mode := a.r4.extractLsb' 0 5
  sync := a.r5.extractLsb' 0 1
  acc := a.r6.extractLsb' 0 2

/-- CW_UNPACK (R105). -/
def cwUnpackOperand (a : Bank) : BitVec 16 := a.r0.extractLsb' 0 16

/-- The operands of DLL_BUILD (R109). -/
structure DllBuildOps where
  dst : Word
  cap : Word
  addr : DeviceAddress
  fc : BitVec 4
  fcv : BitVec 1
  fcb : BitVec 1
  prm : BitVec 1
  isFrameB : Bool
  t : Word
  deriving DecidableEq, Repr

def dllBuildOperands (a : Bank) : DllBuildOps where
  dst := a.r0
  cap := a.r1
  addr := ⟨a.r2.extractLsb' 0 16, a.r3, a.r4.extractLsb' 0 8, a.r4.extractLsb' 8 8⟩
  fc := a.r5.extractLsb' 0 4
  fcv := a.r5.extractLsb' 4 1
  fcb := a.r5.extractLsb' 5 1
  prm := a.r5.extractLsb' 6 1
  isFrameB := a.r5.getLsbD 8
  t := a.r6

/-- The operands of the PARSE commands (R110, R113, R116) and of GET_RECORD (R202). DLL_PARSE and
GET_RECORD do not name `plen`. -/
structure ParseOps where
  src : Word
  avail : Word
  plen : Word
  deriving DecidableEq, Repr

def parseOperands (a : Bank) : ParseOps where
  src := a.r0
  avail := a.r1
  plen := a.r2

/-- The operands STL_BUILD (R112) and LTL_BUILD (R115) share. -/
structure TransportOps where
  hdr : Word
  hcap : Word
  mode : BitVec 5
  acc : Byte
  access : BitVec 2
  sync : BitVec 1
  pay : Word
  plen : Word
  pcap : Word
  deriving DecidableEq, Repr

def transportOperands (a : Bank) : TransportOps where
  hdr := a.r0
  hcap := a.r1
  mode := a.r2.extractLsb' 0 5
  acc := a.r2.extractLsb' 8 8
  access := a.r2.extractLsb' 16 2
  sync := a.r2.extractLsb' 24 1
  pay := a.r3
  plen := a.r4
  pcap := a.r5

/-- The address LTL_BUILD repeats in its header (R115). -/
def ltlAddressOperand (a : Bank) : DeviceAddress where
  mfr := a.r7.extractLsb' 0 16
  id := a.r6
  ver := a.r7.extractLsb' 16 8
  type := a.r7.extractLsb' 24 8

/-- The operands of CRC16 (R133). -/
structure CrcOps where
  src : Word
  n : Word
  deriving DecidableEq, Repr

def crcOperands (a : Bank) : CrcOps where
  src := a.r0
  n := a.r1

/-- The operands of PHY_ENCODE (R145) and PHY_DECODE (R148); `len` is `n` of the one and `e` of the
other. -/
structure PhyOps where
  src : Word
  len : Word
  dst : Word
  cap : Word
  deriving DecidableEq, Repr

def phyOperands (a : Bank) : PhyOps where
  src := a.r0
  len := a.r1
  dst := a.r2
  cap := a.r3

/-- The operands of SET_KEY (R161). -/
structure SetKeyOps where
  src : Word
  klen : Word
  deriving DecidableEq, Repr

def setKeyOperands (a : Bank) : SetKeyOps where
  src := a.r0
  klen := a.r1

/-- The operands of GET_KEY (R162). -/
structure GetKeyOps where
  dst : Word
  cap : Word
  deriving DecidableEq, Repr

def getKeyOperands (a : Bank) : GetKeyOps where
  dst := a.r0
  cap := a.r1

/-- The operands of DERIVE_IV (R164). -/
structure DeriveIvOps where
  dst : Word
  cap : Word
  addr : DeviceAddress
  acc : Byte
  deriving DecidableEq, Repr

def deriveIvOperands (a : Bank) : DeriveIvOps where
  dst := a.r0
  cap := a.r1
  addr := ⟨a.r2.extractLsb' 0 16, a.r3, a.r4.extractLsb' 0 8, a.r4.extractLsb' 8 8⟩
  acc := a.r5.extractLsb' 0 8

/-- The operands of ENCRYPT (R167) and DECRYPT (R169); `len` is `plen` of the one and `clen` of the
other. DECRYPT does not name `xbc`. -/
structure CryptOps where
  src : Word
  len : Word
  dst : Word
  cap : Word
  iv : Word
  ivlen : Word
  xbc : Word
  deriving DecidableEq, Repr

def cryptOperands (a : Bank) : CryptOps where
  src := a.r0
  len := a.r1
  dst := a.r2
  cap := a.r3
  iv := a.r4
  ivlen := a.r5
  xbc := a.r6

/-- The operands of PUT_RECORD (R201). -/
structure PutRecordOps where
  dst : Word
  cap : Word
  lc : BitVec 4
  fn : BitVec 2
  vif : Byte
  v : Word
  deriving DecidableEq, Repr

def putRecordOperands (a : Bank) : PutRecordOps where
  dst := a.r0
  cap := a.r1
  lc := a.r2.extractLsb' 0 4
  fn := a.r2.extractLsb' 4 2
  vif := a.r2.extractLsb' 8 8
  v := a.r3

/-- The operands of BUILD_METER_FRAME (R204). `vol` and `flow` are signed; only their bits are stored. -/
structure MeterOps where
  dst : Word
  cap : Word
  acc : Byte
  access : BitVec 2
  periodic : BitVec 1
  encrypt : Bool
  vol : BitVec 32
  flow : BitVec 16
  deriving DecidableEq, Repr

def meterOperands (a : Bank) : MeterOps where
  dst := a.r0
  cap := a.r1
  acc := a.r2.extractLsb' 0 8
  access := a.r2.extractLsb' 8 2
  periodic := a.r2.extractLsb' 16 1
  encrypt := a.r2.getLsbD 17
  vol := a.r3
  flow := a.r4.extractLsb' 0 16

/-- The operands of ACCESS_WINDOW (R206). `access` is accepted and ignored. -/
structure WindowOps where
  m : BitVec 4
  access : BitVec 2
  slow : Bool
  deriving DecidableEq, Repr

def windowOperands (a : Bank) : WindowOps where
  m := a.r0.extractLsb' 0 4
  access := a.r1.extractLsb' 0 2
  slow := a.r2.getLsbD 0

/-- The operands of ACCESS_DELAY (R208). -/
structure DelayOps where
  acc : Byte
  tnom : Word
  deriving DecidableEq, Repr

def delayOperands (a : Bank) : DelayOps where
  acc := a.r0.extractLsb' 0 8
  tnom := a.r1

end Sys2Proof.Machine
end

