-- ==== Sys2Proof/Machine/Layout.lean ====
section
/-! DEFINITION. The layouts of the Header Model (spec/41_header_model.md): manufacturer code, configuration
word, control field, `lField`, and the DLL, STL and LTL headers. -/

namespace Sys2Proof.Machine

/-- An ASCII letter `A`..`Z` (R100). -/
def isLetter (l : Byte) : Bool := decide (0x41 ≤ l.toNat) && decide (l.toNat ≤ 0x5A)

/-- `MfrEnc(l1, l2, l3)` (R100), for letters. -/
def mfrEnc (l : Letters) : BitVec 16 :=
  ((l.l1 - 64#8).setWidth 16 <<< 10) ||| ((l.l2 - 64#8).setWidth 16 <<< 5) |||
    (l.l3 - 64#8).setWidth 16

/-- A 5-bit group that stands for a letter: 1..26 (R100). -/
def isLetterGroup (g : BitVec 5) : Bool := decide (1 ≤ g.toNat) && decide (g.toNat ≤ 26)

/-- A 16-bit code made of three letters (R100, R102 check 1). -/
def isMfrCode (c : BitVec 16) : Bool :=
  !c.getLsbD 15 && isLetterGroup (c.extractLsb' 10 5) && isLetterGroup (c.extractLsb' 5 5) &&
    isLetterGroup (c.extractLsb' 0 5)

/-- `MfrDec(c)` (R100), for a code of three letters. -/
def mfrDec (c : BitVec 16) : Letters where
  l1 := (c.extractLsb' 10 5).setWidth 8 + 64#8
  l2 := (c.extractLsb' 5 5).setWidth 8 + 64#8
  l3 := (c.extractLsb' 0 5).setWidth 8 + 64#8

/-- The security modes in scope, 0 and 5 (R79). -/
def isSecurityMode (m : BitVec 5) : Bool := m == 0#5 || m == 5#5

/-- `CwPack` (R103). -/
def cwPack (f : CwFields) : BitVec 16 :=
  f.hop.setWidth 16 ||| (f.rep.setWidth 16 <<< 1) ||| (f.content.setWidth 16 <<< 2) |||
    (f.nblk.setWidth 16 <<< 4) ||| (f.mode.setWidth 16 <<< 8) ||| (f.sync.setWidth 16 <<< 13) |||
    (f.acc.setWidth 16 <<< 14)

/-- The fields of a configuration word, read back at the positions of R103 (R105). -/
def cwUnpack (cw : BitVec 16) : CwFields where
  hop := cw.extractLsb' 0 1
  rep := cw.extractLsb' 1 1
  content := cw.extractLsb' 2 2
  nblk := cw.extractLsb' 4 4
  mode := cw.extractLsb' 8 5
  sync := cw.extractLsb' 13 1
  acc := cw.extractLsb' 14 2

/-- The configuration word of a built header: hop counter, repeated access and content of message are 0
(R111, R112). -/
def builtCw (nblk : Nat) (mode : BitVec 5) (sync : BitVec 1) (acc : BitVec 2) : BitVec 16 :=
  cwPack ⟨0#1, 0#1, 0#2, BitVec.ofNat 4 nblk, mode, sync, acc⟩

/-- `CField(fc, fcv, fcb, prm)` (R107). -/
def cField (fc : BitVec 4) (fcv fcb prm : BitVec 1) : Byte :=
  fc.setWidth 8 ||| (fcv.setWidth 8 <<< 4) ||| (fcb.setWidth 8 <<< 5) ||| (prm.setWidth 8 <<< 6)

/-- `LField(t, isFrameB)` (R108; 90_conflicts.md C1, C2); `none` where it fails. -/
def lField (t : Nat) (isFrameB : Bool) : Option Byte :=
  let l : Int := (t : Int) - 1
  let l : Int := if isFrameB then (if t < 125 then l + 2 else l + 4) else l
  if l < 0 ∨ l > 255 then none else some (BitVec.ofNat 8 l.toNat)

/-- The DLL header (R106). -/
def dllHeader (lf cf : Byte) (d : DeviceAddress) : List Byte := [lf, cf] ++ addressBytes d

/-- The STL header (R111): CI 0x7A, access number, status 0, configuration word. -/
def stlHeader (acc : Byte) (cw : BitVec 16) : List Byte :=
  [0x7A#8, acc, 0x00#8] ++ leBytes 2 cw.toNat

/-- The LTL header (R114, R115): CI 0x72, identifier, manufacturer, version, device type, access number,
status 0, configuration word. -/
def ltlHeader (d : DeviceAddress) (acc : Byte) (cw : BitVec 16) : List Byte :=
  [0x72#8] ++ leBytes 4 d.id.toNat ++ leBytes 2 d.mfr.toNat ++ [d.ver, d.type, acc, 0x00#8] ++
    leBytes 2 cw.toNat

end Sys2Proof.Machine
end

