-- ==== Sys2Proof/Machine/Assembler.lean ====
section
/-! DEFINITION. The Frame Assembler and the timing model (spec/46_frame_assembler.md): PUT_RECORD,
GET_RECORD, BUILD_METER_FRAME, ACCESS_WINDOW, ACCESS_DELAY. -/

namespace Sys2Proof.Machine

/-! ### Value records (R200) -/

/-- The length codes of R200: 1, 2 and 4. -/
def isLengthCode (lc : BitVec 4) : Bool := lc == 1#4 || lc == 2#4 || lc == 4#4

/-- `Size(lc)` (R200): the number of value bytes, which is the code itself for 1, 2 and 4. -/
def recordSize (lc : BitVec 4) : Nat := lc.toNat

/-- `Record(fn, lc, vif, v)` (R200): DIF bits 7:6 are 0. -/
def record (fn : BitVec 2) (lc : BitVec 4) (vif : Byte) (v : Nat) : List Byte :=
  [0#2 ++ fn ++ lc, vif] ++ leBytes (recordSize lc) v

/-- PUT_RECORD (R201). -/
def execPutRecord (s : State) : Host.Outcome State Fault Refusal :=
  let o := putRecordOperands s.a
  .next (s.checked
    [ (!isLengthCode o.lc, .difForm),
      (!s.inBuf o.dst o.cap.toNat, .outOfRange),
      (decide (o.cap.toNat < 2 + recordSize o.lc), .bufferTooSmall) ]
    fun _ =>
      (s.memWrite o.dst.toNat (record o.fn o.lc o.vif o.v.toNat)).done
        { r0 := trunc32 (2 + recordSize o.lc) })

/-- The filler byte in the place of a DIF (R200, R202). -/
def filler : Byte := 0x2F#8

/-- How many fillers a payload starts with (R202). -/
def leadingFillers : List Byte → Nat
  | [] => 0
  | b :: x => if b = filler then leadingFillers x + 1 else 0

/-- The value of a record as `GET_RECORD` returns it, sign-extended to 32 bits (R202). -/
def signedValue (x : List Byte) : Word :=
  (BitVec.ofNat (8 * x.length) (fromLE x)).signExtend 32

/-- The part of GET_RECORD that depends on the payload `d` read (R202). -/
def getRecordFrom (s : State) (d : List Byte) : State :=
  let i := leadingFillers d
  if i = d.length then s.done { r0 := trunc32 d.length, r1 := 0#32, r5 := trunc32 i }
  else
    let dif := byteAt d i
    let lc := dif.extractLsb' 0 4
    let k := recordSize lc
    s.checked
      [ (dif.extractLsb' 6 2 != 0#2 || !isLengthCode lc, .difForm),
        (decide (d.length - i < 2 + k), .lengthRange) ]
      fun _ =>
        s.done { r0 := trunc32 (i + 2 + k), r1 := 1#32, r2 := dif.setWidth 32,
                 r3 := (byteAt d (i + 1)).setWidth 32,
                 r4 := signedValue ((d.drop (i + 2)).take k), r5 := trunc32 i,
                 r6 := (dif.extractLsb' 4 2).setWidth 32, r7 := trunc32 k }

/-- GET_RECORD (R202). -/
def execGetRecord (s : State) : Host.Outcome State Fault Refusal :=
  let o := parseOperands s.a
  .next (s.checked
    [ (o.avail == 0#32, .lengthRange),
      (!s.inBuf o.src o.avail.toNat, .outOfRange) ]
    fun _ => getRecordFrom s (s.memRead o.src.toNat o.avail.toNat))

/-! ### The meter frame (R203, R204) -/

/-- `MeterPayload(vol, flow, encrypt)` (R203). -/
def meterPayload (vol : BitVec 32) (flow : BitVec 16) (encrypt : Bool) : List Byte :=
  (if encrypt then [filler, filler] else []) ++ record 0#2 4#4 0x13#8 vol.toNat ++
    record 0#2 2#4 0x3B#8 flow.toNat

/-- The configuration word of a meter frame (R204). -/
def meterCw (o : MeterOps) : BitVec 16 :=
  if o.encrypt then builtCw 1 5#5 o.periodic o.access else builtCw 0 0#5 o.periodic o.access

/-- The payload of a meter frame as it stands in the frame: in Mode 5 its ciphertext (R204). -/
def meterBody (s : State) (o : MeterOps) : List Byte :=
  let p := meterPayload o.vol o.flow o.encrypt
  if o.encrypt then cbcEncrypt s.key (deriveIv s.dev o.acc) (pad p 1) else p

/-- The length of a meter frame (R204): 31 with `encrypt`, 25 without. -/
def meterLength (o : MeterOps) : Nat := if o.encrypt then 31 else 25

/-- The complete meter frame, before FEC: DLL, STL, payload (R204). -/
def meterFrame (s : State) (o : MeterOps) : List Byte :=
  dllHeader ((lField (meterLength o) false).getD 0#8) (cField 4#4 0#1 0#1 1#1) s.dev ++
    stlHeader o.acc (meterCw o) ++ meterBody s o

/-- BUILD_METER_FRAME (R204). `MODE` is not read. -/
def execBuildMeterFrame (s : State) : Host.Outcome State Fault Refusal :=
  let o := meterOperands s.a
  .next (s.checked
    [ (o.encrypt && !s.keyValid, .keyNotSet),
      (!s.inBuf o.dst o.cap.toNat, .outOfRange),
      (decide (o.cap.toNat < meterLength o), .bufferTooSmall) ]
    fun _ =>
      (s.memWrite o.dst.toNat (meterFrame s o)).done
        { r0 := trunc32 (meterLength o), r1 := trunc32 (meterLength o - 1),
          r2 := (meterCw o).setWidth 32, r3 := if o.encrypt then 1#32 else 0#32,
          r4 := trunc32 (meterPayload o.vol o.flow o.encrypt).length,
          r5 := trunc32 (meterBody s o).length })

/-! ### The timing model (R205 to R208) -/

/-- The row of the access-window table for `(m, slow)` (R205), `m` a FrameMode code: the start and stop
offsets in microseconds. The rows the source does not give are the parameters of R7. -/
def accessWindow (m : BitVec 4) (slow : Bool) : Word × Word :=
  if m = 1#4 ∨ m = 2#4 then (2000#32, 3000#32)
  else if m = 3#4 ∨ m = 4#4 then
    if slow then (999500#32, 1000500#32) else (99500#32, 100500#32)
  else (Config.awStart m slow, Config.awStop m slow)

/-- ACCESS_WINDOW (R206). The accessibility is accepted and ignored. -/
def execAccessWindow (s : State) : Host.Outcome State Fault Refusal :=
  let o := windowOperands s.a
  .next (s.checked [(decide (o.m.toNat > 8), .reservedOperand)] fun _ =>
    s.done { r0 := (accessWindow o.m o.slow).1, r1 := (accessWindow o.m o.slow).2 })

/-- `AccessDelay(acc, tnom)` (R207): the product is exact, the quotient truncated. -/
def accessDelay (acc : Byte) (tnom : Nat) : Nat :=
  let d := ((acc.toNat : Int) - 128).natAbs
  let f := 2048 + d - 64
  f * tnom / 2048

/-- ACCESS_DELAY (R208): the low 32 bits and the bits above. -/
def execAccessDelay (s : State) : Host.Outcome State Fault Refusal :=
  let o := delayOperands s.a
  let r := accessDelay o.acc o.tnom.toNat
  .next (s.done { r0 := trunc32 r, r1 := trunc32 (r / 2 ^ 32) })

end Sys2Proof.Machine
end

