-- ==== Sys2Proof/Machine/Configure.lean ====
section
/-! DEFINITION. The configuration commands NOP and SET_MODE (spec/40_config.md). -/

namespace Sys2Proof.Machine

/-- NOP (R90): clears the result registers, `STATUS` and `ERRINFO`. -/
def execNop (s : State) : Host.Outcome State Fault Refusal := .next (s.done {})

/-- SET_MODE (R91): selects the FrameMode; a code above 8 is refused (R77). -/
def execSetMode (s : State) : Host.Outcome State Fault Refusal :=
  let m := setModeOperand s.a
  .next (s.checked [(decide (m.toNat > 8), .reservedOperand)] fun _ => (s.setMode m).done {})

end Sys2Proof.Machine
end

