-- ==== Sys2Proof/Machine/Crc.lean ====
section
/-! DEFINITION. The CRC Engine and the block segmentation (spec/42_crc.md), and the command CRC16. -/

namespace Sys2Proof.Machine

/-- One of the eight shifts of a byte (R130). -/
def crcShift (r : BitVec 16) : BitVec 16 :=
  if r.getLsbD 15 then (r <<< 1) ^^^ 0x3D65#16 else r <<< 1

/-- A function applied `n` times. -/
def times {α : Type} (f : α → α) : Nat → α → α
  | 0, x => x
  | n + 1, x => times f n (f x)

/-- The remainder after one byte (R130). -/
def crcByte (r : BitVec 16) (b : Byte) : BitVec 16 :=
  times crcShift 8 (r ^^^ (b.setWidth 16 <<< 8))

/-- `Crc16(X)` (R130). -/
def crc16 (x : List Byte) : BitVec 16 := x.foldl crcByte 0x0000#16 ^^^ 0xFFFF#16

/-- `Rev_n(v)`: the reversal of the bits of a value (R131). -/
def reverseBits {n : Nat} (v : BitVec n) : BitVec n := v.reverse

/-- One of the eight shifts of a byte in the accelerator reading (R131). -/
def crcReflShift (r : BitVec 16) : BitVec 16 :=
  if r.getLsbD 0 then (r >>> 1) ^^^ 0xA6BC#16 else r >>> 1

/-- The remainder after one byte in the accelerator reading (R131). -/
def crcReflByte (r : BitVec 16) (b : Byte) : BitVec 16 :=
  times crcReflShift 8 (r ^^^ (reverseBits b).setWidth 16)

/-- `Crc16Refl(X)` (R131): the same function as a peripheral that shifts least-significant-bit first
computes it. No command uses it; the spec gives it so that its wording is not misread. -/
def crc16Refl (x : List Byte) : BitVec 16 :=
  reverseBits (x.foldl crcReflByte 0x0000#16) ^^^ 0xFFFF#16

/-- `Blocks(n)` (R134): a first block of up to 10 bytes, blocks of 16, a shorter last block. -/
def blocks (n : Nat) : List Nat :=
  if n ≤ 10 then [n]
  else
    let q := (n - 10) / 16
    let r := (n - 10) % 16
    10 :: (List.replicate q 16 ++ if r > 0 then [r] else [])

/-- `NumBlocks(n)` (R134). -/
def numBlocks (n : Nat) : Nat := (blocks n).length

/-- The two CRC bytes of a block, high byte first (R135). -/
def crcBytes (b : List Byte) : List Byte :=
  [(crc16 b).extractLsb' 8 8, (crc16 b).extractLsb' 0 8]

/-- A sequence cut into blocks of the given lengths, each followed by its CRC (R135). -/
def withCrcBlocks : List Nat → List Byte → List Byte
  | [], _ => []
  | k :: ks, x => x.take k ++ crcBytes (x.take k) ++ withCrcBlocks ks (x.drop k)

/-- `WithCrc(X)` (R135). -/
def withCrc (x : List Byte) : List Byte := withCrcBlocks (blocks x.length) x

/-- CRC16 (R133). `MODE` is not read. -/
def execCrc16 (s : State) : Host.Outcome State Fault Refusal :=
  let o := crcOperands s.a
  .next (s.checked [(!s.inBuf o.src o.n.toNat, .outOfRange)] fun _ =>
    s.done { r0 := (crc16 (s.memRead o.src.toNat o.n.toNat)).setWidth 32 })

end Sys2Proof.Machine
end

