-- ==== Sys2Proof/Machine/Header.lean ====
section
/-! DEFINITION. The commands of the Header Model (spec/41_header_model.md): MFR_ENC, MFR_DEC, CW_PACK,
CW_UNPACK, DLL_BUILD, DLL_PARSE, STL_BUILD, STL_PARSE, LTL_BUILD, LTL_PARSE. -/

namespace Sys2Proof.Machine

/-- MFR_ENC (R101). -/
def execMfrEnc (s : State) : Host.Outcome State Fault Refusal :=
  let l := mfrEncOperands s.a
  .next (s.checked [(!(isLetter l.l1 && isLetter l.l2 && isLetter l.l3), .reservedOperand)] fun _ =>
    s.done { r0 := (mfrEnc l).setWidth 32 })

/-- MFR_DEC (R102). -/
def execMfrDec (s : State) : Host.Outcome State Fault Refusal :=
  let c := mfrDecOperand s.a
  let l := mfrDec c
  .next (s.checked [(!isMfrCode c, .reservedOperand)] fun _ =>
    s.done { r0 := l.l1.setWidth 32 ||| (l.l2.setWidth 32 <<< 8) ||| (l.l3.setWidth 32 <<< 16) })

/-- CW_PACK (R104). -/
def execCwPack (s : State) : Host.Outcome State Fault Refusal :=
  let f := cwPackOperands s.a
  .next (s.checked [(!isSecurityMode f.mode, .securityMode)] fun _ =>
    s.done { r0 := (cwPack f).setWidth 32 })

/-- CW_UNPACK (R105). -/
def execCwUnpack (s : State) : Host.Outcome State Fault Refusal :=
  let f := cwUnpack (cwUnpackOperand s.a)
  .next (s.checked [(!isSecurityMode f.mode, .securityMode)] fun _ =>
    s.done { r0 := f.hop.setWidth 32, r1 := f.rep.setWidth 32, r2 := f.content.setWidth 32,
             r3 := f.nblk.setWidth 32, r4 := f.mode.setWidth 32, r5 := f.sync.setWidth 32,
             r6 := f.acc.setWidth 32 })

/-- The effect of DLL_BUILD once its checks have passed and `lField` is `lf` (R109). -/
def dllBuildEffect (s : State) (o : DllBuildOps) (lf : Byte) : State :=
  (s.memWrite o.dst.toNat (dllHeader lf (cField o.fc o.fcv o.fcb o.prm) o.addr)).done
    { r0 := 10#32, r1 := lf.setWidth 32 }

/-- DLL_BUILD (R109). -/
def execDllBuild (s : State) : Host.Outcome State Fault Refusal :=
  let o := dllBuildOperands s.a
  let lf := lField o.t.toNat o.isFrameB
  .next (s.checked
    [ (!s.inBuf o.dst o.cap.toNat, .outOfRange),
      (lf.isNone, .lFieldOverflow),
      (decide (o.cap.toNat < 10), .bufferTooSmall) ]
    fun _ => dllBuildEffect s o (lf.getD 0#8))

/-- DLL_PARSE (R110). No field is validated. -/
def execDllParse (s : State) : Host.Outcome State Fault Refusal :=
  let o := parseOperands s.a
  .next (s.checked
    [ (decide (o.avail.toNat < 10), .lengthRange),
      (!s.inBuf o.src o.avail.toNat, .outOfRange) ]
    fun _ =>
      let h := s.memRead o.src.toNat 10
      s.done { r0 := (byteAt h 0).setWidth 32, r1 := (byteAt h 1).setWidth 32,
               r2 := trunc32 (fromLE ((h.drop 2).take 2)), r3 := trunc32 (fromLE ((h.drop 4).take 4)),
               r4 := (byteAt h 8).setWidth 32, r5 := (byteAt h 9).setWidth 32 })

/-! ### Building a transport-layer header (R112, R115) -/

/-- The checks of STL_BUILD and LTL_BUILD for a header of `hlen` bytes: those of mode 0 do not look at
the payload operands (R112). -/
def transportChecks (s : State) (o : TransportOps) (hlen : Nat) : List (Bool × Failure) :=
  if o.mode = 5#5 then
    [ (o.pay == nullAddr, .nullAddress),
      (o.plen == 0#32, .zeroLength),
      (!s.keyValid, .keyNotSet),
      (!s.inBuf o.hdr o.hcap.toNat || !s.inBuf o.pay o.pcap.toNat, .outOfRange),
      (overlap o.hdr o.hcap.toNat o.pay o.pcap.toNat, .overlap),
      (decide (ceilDiv16 o.plen.toNat > 15), .encBlocksMismatch),
      (decide (o.hcap.toNat < hlen), .bufferTooSmall),
      (decide (o.pcap.toNat < 16 * ceilDiv16 o.plen.toNat), .bufferTooSmall) ]
  else
    [ (!isSecurityMode o.mode, .securityMode),
      (!s.inBuf o.hdr o.hcap.toNat, .outOfRange),
      (decide (o.hcap.toNat < hlen), .bufferTooSmall) ]

/-- The ciphertext a Mode 5 build leaves in place of the payload: the padded payload under `KEY` and the
IV derived from `d` and the access number (R112). -/
def transportCiphertext (s : State) (o : TransportOps) (d : DeviceAddress) : List Byte :=
  cbcEncrypt s.key (deriveIv d o.acc)
    (pad (s.memRead o.pay.toNat o.plen.toNat) (ceilDiv16 o.plen.toNat))

/-- The effect of STL_BUILD and LTL_BUILD once their checks have passed: `header` lays the header out
around its configuration word, `d` is the address the IV is derived from (R112, R115). -/
def transportEffect (s : State) (o : TransportOps) (hlen : Nat) (d : DeviceAddress)
    (header : BitVec 16 → List Byte) : State :=
  if o.mode = 5#5 then
    let bc := ceilDiv16 o.plen.toNat
    let cw := builtCw bc 5#5 o.sync o.access
    ((s.memWrite o.pay.toNat (transportCiphertext s o d)).memWrite o.hdr.toNat (header cw)).done
      { r0 := trunc32 hlen, r1 := trunc32 (16 * bc), r2 := cw.setWidth 32, r3 := trunc32 bc }
  else
    let cw := builtCw 0 0#5 o.sync o.access
    (s.memWrite o.hdr.toNat (header cw)).done
      { r0 := trunc32 hlen, r1 := o.plen, r2 := cw.setWidth 32, r3 := 0#32 }

/-- STL_BUILD (R112): the IV is derived from the CORE's own fixed address. -/
def execStlBuild (s : State) : Host.Outcome State Fault Refusal :=
  let o := transportOperands s.a
  .next (s.checked (transportChecks s o 5) fun _ => transportEffect s o 5 s.dev (stlHeader o.acc))

/-- LTL_BUILD (R115): the IV is derived from the address in the operands. -/
def execLtlBuild (s : State) : Host.Outcome State Fault Refusal :=
  let o := transportOperands s.a
  let d := ltlAddressOperand s.a
  .next (s.checked (transportChecks s o 13) fun _ => transportEffect s o 13 d (ltlHeader d o.acc))

/-! ### Parsing a transport-layer header (R113, R116) -/

/-- The checks of STL_PARSE and LTL_PARSE for a header of `hlen` bytes whose configuration word stands in
its last two bytes. -/
def transportParseChecks (s : State) (o : ParseOps) (hlen : Nat) (cw : BitVec 16) :
    List (Bool × Failure) :=
  [ (decide (o.avail.toNat < hlen), .lengthRange),
    (!s.inBuf o.src o.avail.toNat, .outOfRange),
    (!isSecurityMode (cwUnpack cw).mode, .securityMode),
    ((cwUnpack cw).mode == 5#5 && decide ((cwUnpack cw).nblk.toNat ≠ ceilDiv16 o.plen.toNat),
      .encBlocksMismatch) ]

/-- STL_PARSE (R113). -/
def execStlParse (s : State) : Host.Outcome State Fault Refusal :=
  let o := parseOperands s.a
  let h := s.memRead o.src.toNat 5
  let cw := BitVec.ofNat 16 (fromLE ((h.drop 3).take 2))
  .next (s.checked (transportParseChecks s o 5 cw) fun _ =>
    s.done { r0 := (byteAt h 0).setWidth 32, r1 := (byteAt h 1).setWidth 32,
             r2 := (byteAt h 2).setWidth 32, r3 := cw.setWidth 32 })

/-- LTL_PARSE (R116). -/
def execLtlParse (s : State) : Host.Outcome State Fault Refusal :=
  let o := parseOperands s.a
  let h := s.memRead o.src.toNat 13
  let cw := BitVec.ofNat 16 (fromLE ((h.drop 11).take 2))
  .next (s.checked (transportParseChecks s o 13 cw) fun _ =>
    s.done { r0 := (byteAt h 0).setWidth 32, r1 := (byteAt h 9).setWidth 32,
             r2 := (byteAt h 10).setWidth 32, r3 := cw.setWidth 32,
             r4 := trunc32 (fromLE ((h.drop 1).take 4)), r5 := trunc32 (fromLE ((h.drop 5).take 2)),
             r6 := (byteAt h 7).setWidth 32, r7 := (byteAt h 8).setWidth 32 })

end Sys2Proof.Machine
end

