-- ==== Sys2Proof/Machine/Phy.lean ====
section
/-! DEFINITION. The 3-out-of-6 PHY encoder and decoder of Mode T (spec/43_phy_3of6.md), and the commands
PHY_ENCODE and PHY_DECODE. -/

namespace Sys2Proof.Machine

/-- `T3of6` (R140): the 6-bit code of a nibble. -/
def t3of6 (n : BitVec 4) : BitVec 6 :=
  [ 0x16#6, 0x0D#6, 0x0E#6, 0x0B#6, 0x1C#6, 0x19#6, 0x1A#6, 0x13#6,
    0x2C#6, 0x25#6, 0x26#6, 0x23#6, 0x34#6, 0x31#6, 0x32#6, 0x29#6 ].getD n.toNat 0#6

/-- The sixteen nibbles, in order. -/
def nibbles : List (BitVec 4) :=
  [0x0#4, 0x1#4, 0x2#4, 0x3#4, 0x4#4, 0x5#4, 0x6#4, 0x7#4,
    0x8#4, 0x9#4, 0xA#4, 0xB#4, 0xC#4, 0xD#4, 0xE#4, 0xF#4]

/-- `Inv3of6` (R141): the nibble of a code; `none` on an invalid code. -/
def inv3of6 (c : BitVec 6) : Option (BitVec 4) := nibbles.find? (fun n => t3of6 n == c)

/-! ### The encoded stream (R142 to R144). A bit stream is a list, the first bit on air first. -/

/-- The bits of a value, most significant first (R8). -/
def msbFirst : (n : Nat) → BitVec n → List Bool
  | 0, _ => []
  | n + 1, v => v.getLsbD n :: msbFirst n (v.setWidth n)

/-- The value of a bit list read most significant bit first, as an unsigned number (R8). -/
def fromMsbFirst (bs : List Bool) : Nat := bs.foldl (fun acc b => 2 * acc + b.toNat) 0

/-- The twelve stream bits of a byte: the code of its high nibble, then that of its low nibble (R142). -/
def codeBits (b : Byte) : List Bool :=
  msbFirst 6 (t3of6 (b.extractLsb' 4 4)) ++ msbFirst 6 (t3of6 (b.extractLsb' 0 4))

/-- The bit stream `S` of a byte sequence `W` (R142). -/
def codeStream (w : List Byte) : List Bool := w.flatMap codeBits

/-- The whole bytes of a bit stream, stream bit `8i` in bit 7 of byte `i`; a rest of fewer than 8 bits is
dropped (R142). -/
def packBytes : List Bool → List Byte
  | b7 :: b6 :: b5 :: b4 :: b3 :: b2 :: b1 :: b0 :: rest =>
    BitVec.ofNat 8 (fromMsbFirst [b7, b6, b5, b4, b3, b2, b1, b0]) :: packBytes rest
  | _ => []

/-- `EncLen(n)` (R143). -/
def encLen (n : Nat) : Nat := (3 * (n + 2 * numBlocks n)) / 2 + 1

/-- The postamble byte after an even number of coded bytes (R144), from the last code byte. -/
def postambleByte (last : Byte) : Byte := if last.getLsbD 0 then 0xAA#8 else 0x55#8

/-- The last byte after an odd number of coded bytes (R144, log entry 9): the final four stream bits,
then the postamble nibble. -/
def postambleHalf (h : List Bool) : Byte :=
  let v := fromMsbFirst h
  BitVec.ofNat 8 (v * 16 + if v % 2 = 0 then 0x5 else 0xA)

/-- The encoded form of a byte sequence `W` that already holds its block CRCs: the coded bytes and the
postamble (R145). -/
def encode3of6 (w : List Byte) : List Byte :=
  let bits := codeStream w
  let e := packBytes bits
  if w.length % 2 = 0 then e ++ [postambleByte (e.getLastD 0#8)]
  else e ++ [postambleHalf (bits.drop (12 * w.length - 4))]

/-- The encoded frame with block CRCs and postamble (R145). -/
def phyEncode (x : List Byte) : List Byte := encode3of6 (withCrc x)

/-! ### Decoding (R147, R148) -/

/-- `DecLen(e)` (R147); `none` where it fails. -/
def decLen (e : Nat) : Option Nat :=
  if e < 1 then none
  else
    let m := e - 1
    if m % 3 = 2 then none
    else
      let n := if m % 3 = 0 then 2 * (m / 3) else 2 * (m / 3) + 1
      if n < 3 then none
      else
        let q := (n - 12) / 18
        let r := (n - 12) % 18
        if n > 12 ∧ 0 < r ∧ r < 3 then none
        else
          let len := if n ≤ 12 then n - 2 else if r = 0 then 10 + 16 * q else 10 + 16 * q + (r - 2)
          if len > 256 then none else some len

/-- The bit stream of encoded bytes: stream bit `p` is bit `7 - (p mod 8)` of byte `p div 8` (R148). -/
def byteStream (e : List Byte) : List Bool := e.flatMap (msbFirst 8)

/-- The byte the next two codes of a bit stream stand for; `none` if either is invalid (R148). -/
def decodeByte (bs : List Bool) : Option Byte :=
  match inv3of6 (BitVec.ofNat 6 (fromMsbFirst (bs.take 6))),
      inv3of6 (BitVec.ofNat 6 (fromMsbFirst ((bs.drop 6).take 6))) with
  | some hi, some lo => some (hi ++ lo)
  | _, _ => none

/-- The next `n` raw bytes of a bit stream; `none` at the first invalid code (R148). -/
def decodeBytes : Nat → List Bool → Option (List Byte)
  | 0, _ => some []
  | n + 1, bs =>
    match decodeByte bs with
    | none => none
    | some b =>
      match decodeBytes n (bs.drop 12) with
      | none => none
      | some r => some (b :: r)

/-- What decoding leaves (R148, R149): the bytes of the verified blocks, their number, and the failure
that ended it, if any. -/
structure Decoded where
  bytes : List Byte
  verified : Nat
  failure : Option Failure
  deriving DecidableEq, Repr

/-- The blocks of the given lengths decoded in order from block `b` on (R148): all codes of a block are
checked before its CRC, and the first bad block ends it. -/
def decodeBlocks : List Nat → Nat → List Bool → Decoded
  | [], b, _ => ⟨[], b, none⟩
  | k :: ks, b, bs =>
    match decodeBytes (k + 2) bs with
    | none => ⟨[], b, some (.invalidCode b)⟩
    | some r =>
      if (crc16 (r.take k)).toNat ≠ (byteAt r k).toNat * 256 + (byteAt r (k + 1)).toNat then
        ⟨[], b, some (.crcMismatch b)⟩
      else
        let rest := decodeBlocks ks (b + 1) (bs.drop (12 * (k + 2)))
        ⟨r.take k ++ rest.bytes, rest.verified, rest.failure⟩

/-- The decoding of an encoded frame for a frame length `n` (R148). The postamble is not examined. -/
def phyDecode (n : Nat) (e : List Byte) : Decoded := decodeBlocks (blocks n) 0 (byteStream e)

/-! ### The commands -/

/-- The FrameMode T-Meter (R77), the one mode with FEC and block CRC. -/
def tMeter : BitVec 4 := 1#4

/-- The pass-through of both commands in the modes other than T-Meter (R146): the input length and the
source address. -/
def passThrough (s : State) (o : PhyOps) : State := s.done { r0 := o.len, r1 := o.src, r2 := 0#32 }

/-- PHY_ENCODE (R145, R146). -/
def execPhyEncode (s : State) : Host.Outcome State Fault Refusal :=
  let o := phyOperands s.a
  let n := o.len.toNat
  .next (s.checked [(!s.modeValid, .modeNotSet)] fun _ =>
    if s.mode ≠ tMeter then passThrough s o
    else
      s.checked
        [ (decide (n = 0 ∨ n > 256), .lengthRange),
          (!s.inBuf o.src n || !s.inBuf o.dst o.cap.toNat, .outOfRange),
          (overlap o.src n o.dst o.cap.toNat, .overlap),
          (decide (o.cap.toNat < encLen n), .bufferTooSmall) ]
        fun _ =>
          (s.memWrite o.dst.toNat (phyEncode (s.memRead o.src.toNat n))).done
            { r0 := trunc32 (encLen n), r1 := o.dst, r2 := trunc32 (numBlocks n) })

/-- The end of PHY_DECODE once its checks have passed (R148, R149): the verified blocks are written,
whether all blocks were verified or one failed. -/
def phyDecodeEffect (s : State) (o : PhyOps) (n : Nat) : State :=
  let d := phyDecode n (s.memRead o.src.toNat o.len.toNat)
  let t := s.memWrite o.dst.toNat d.bytes
  match d.failure with
  | some f => t.raise f { r0 := trunc32 d.bytes.length, r2 := trunc32 d.verified }
  | none => t.done { r0 := trunc32 n, r1 := o.dst, r2 := trunc32 (numBlocks n) }

/-- PHY_DECODE (R148, R146). -/
def execPhyDecode (s : State) : Host.Outcome State Fault Refusal :=
  let o := phyOperands s.a
  let n := decLen o.len.toNat
  .next (s.checked [(!s.modeValid, .modeNotSet)] fun _ =>
    if s.mode ≠ tMeter then passThrough s o
    else
      s.checked
        [ (!s.inBuf o.src o.len.toNat || !s.inBuf o.dst o.cap.toNat, .outOfRange),
          (overlap o.src o.len.toNat o.dst o.cap.toNat, .overlap),
          (n.isNone, .encodedLength),
          (decide (o.cap.toNat < n.getD 0), .bufferTooSmall) ]
        fun _ => phyDecodeEffect s o (n.getD 0))

end Sys2Proof.Machine
end

