-- ==== Sys2Proof/Machine/Security.lean ====
section
/-! DEFINITION. The commands of the Security Layer (spec/44_security.md): SET_KEY, GET_KEY, DERIVE_IV,
ENCRYPT, DECRYPT. -/

namespace Sys2Proof.Machine

/-- SET_KEY (R161). On failure the key and its validity are kept. -/
def execSetKey (s : State) : Host.Outcome State Fault Refusal :=
  let o := setKeyOperands s.a
  .next (s.checked
    [ (o.src == nullAddr, .nullAddress),
      (o.klen == 0#32, .zeroLength),
      (o.klen != 16#32, .wrongLength),
      (!s.inBuf o.src 16, .outOfRange) ]
    fun _ => (s.setKey (Block.ofBytes (s.memRead o.src.toNat 16))).done {})

/-- GET_KEY (R162). -/
def execGetKey (s : State) : Host.Outcome State Fault Refusal :=
  let o := getKeyOperands s.a
  .next (s.checked
    [ (o.dst == nullAddr, .nullAddress),
      (o.cap == 0#32, .zeroLength),
      (!s.keyValid, .keyNotSet),
      (!s.inBuf o.dst o.cap.toNat, .outOfRange),
      (decide (o.cap.toNat < 16), .bufferTooSmall) ]
    fun _ => (s.memWrite o.dst.toNat s.key.toBytes).done { r0 := 16#32 })

/-- DERIVE_IV (R164). Neither `KEY` nor the fixed address is read. -/
def execDeriveIv (s : State) : Host.Outcome State Fault Refusal :=
  let o := deriveIvOperands s.a
  .next (s.checked
    [ (o.dst == nullAddr, .nullAddress),
      (o.cap == 0#32, .zeroLength),
      (!s.inBuf o.dst o.cap.toNat, .outOfRange),
      (decide (o.cap.toNat < 16), .bufferTooSmall) ]
    fun _ => (s.memWrite o.dst.toNat (deriveIv o.addr o.acc)).done { r0 := 16#32 })

/-- The block count of ENCRYPT: the explicit count, or as many blocks as the plaintext needs (R165,
R167). -/
def encryptBlockCount (o : CryptOps) : Nat :=
  if o.xbc ≠ 0#32 then o.xbc.toNat else ceilDiv16 o.len.toNat

/-- The range and overlap checks ENCRYPT and DECRYPT share: in place (`dst = src`) is allowed, every
other overlap with the destination is refused (R57, R167, R169). -/
def cryptRangeChecks (s : State) (o : CryptOps) : List (Bool × Failure) :=
  [ (!s.inBuf o.src o.len.toNat || !s.inBuf o.dst o.cap.toNat || !s.inBuf o.iv 16, .outOfRange),
    ((o.dst != o.src && overlap o.src o.len.toNat o.dst o.cap.toNat) ||
      overlap o.iv 16 o.dst o.cap.toNat, .overlap) ]

/-- The input checks ENCRYPT and DECRYPT share (R160). -/
def cryptInputChecks (s : State) (o : CryptOps) : List (Bool × Failure) :=
  [ (o.src == nullAddr || o.dst == nullAddr || o.iv == nullAddr, .nullAddress),
    (o.len == 0#32 || o.cap == 0#32 || o.ivlen == 0#32, .zeroLength),
    (!s.keyValid, .keyNotSet) ]

/-- ENCRYPT (R167). -/
def execEncrypt (s : State) : Host.Outcome State Fault Refusal :=
  let o := cryptOperands s.a
  let bc := encryptBlockCount o
  .next (s.checked
    (cryptInputChecks s o ++
      [ (o.ivlen != 16#32, .wrongLength),
        (decide (16 * bc < o.len.toNat), .blockCountTooSmall) ] ++
      cryptRangeChecks s o ++
      [(decide (o.cap.toNat < 16 * bc), .bufferTooSmall)])
    fun _ =>
      let p := s.memRead o.src.toNat o.len.toNat
      let iv := s.memRead o.iv.toNat 16
      (s.memWrite o.dst.toNat (cbcEncrypt s.key iv (pad p bc))).done
        { r0 := trunc32 (16 * bc), r1 := trunc32 bc })

/-- DECRYPT (R169). The padding is returned with the data. -/
def execDecrypt (s : State) : Host.Outcome State Fault Refusal :=
  let o := cryptOperands s.a
  .next (s.checked
    (cryptInputChecks s o ++
      [(o.ivlen != 16#32 || decide (o.len.toNat % 16 ≠ 0), .wrongLength)] ++
      cryptRangeChecks s o ++
      [(decide (o.cap.toNat < o.len.toNat), .bufferTooSmall)])
    fun _ =>
      let c := s.memRead o.src.toNat o.len.toNat
      let iv := s.memRead o.iv.toNat 16
      (s.memWrite o.dst.toNat (cbcDecrypt s.key iv c)).done { r0 := o.len })

end Sys2Proof.Machine
end

