-- ==== Sys2Proof/Machine/Dispatch.lean ====
section
/-! DEFINITION. The dispatcher: one arm per command, each a direct call of its meaning. -/

namespace Sys2Proof.Machine

def exec (i : Instr) (s : State) : Host.Outcome State Fault Refusal :=
  match i with
  -- configuration (spec/40_config.md)
  | .nop => Sys2Proof.Machine.execNop s
  | .setMode => Sys2Proof.Machine.execSetMode s
  -- Header Model (spec/41_header_model.md)
  | .mfrEnc => Sys2Proof.Machine.execMfrEnc s
  | .mfrDec => Sys2Proof.Machine.execMfrDec s
  | .cwPack => Sys2Proof.Machine.execCwPack s
  | .cwUnpack => Sys2Proof.Machine.execCwUnpack s
  | .dllBuild => Sys2Proof.Machine.execDllBuild s
  | .dllParse => Sys2Proof.Machine.execDllParse s
  | .stlBuild => Sys2Proof.Machine.execStlBuild s
  | .stlParse => Sys2Proof.Machine.execStlParse s
  | .ltlBuild => Sys2Proof.Machine.execLtlBuild s
  | .ltlParse => Sys2Proof.Machine.execLtlParse s
  -- CRC Engine (spec/42_crc.md)
  | .crc16 => Sys2Proof.Machine.execCrc16 s
  -- PHY (spec/43_phy_3of6.md)
  | .phyEncode => Sys2Proof.Machine.execPhyEncode s
  | .phyDecode => Sys2Proof.Machine.execPhyDecode s
  -- Security Layer (spec/44_security.md)
  | .setKey => Sys2Proof.Machine.execSetKey s
  | .getKey => Sys2Proof.Machine.execGetKey s
  | .deriveIv => Sys2Proof.Machine.execDeriveIv s
  | .encrypt => Sys2Proof.Machine.execEncrypt s
  | .decrypt => Sys2Proof.Machine.execDecrypt s
  -- Frame Assembler and timing (spec/46_frame_assembler.md)
  | .putRecord => Sys2Proof.Machine.execPutRecord s
  | .getRecord => Sys2Proof.Machine.execGetRecord s
  | .buildMeterFrame => Sys2Proof.Machine.execBuildMeterFrame s
  | .accessWindow => Sys2Proof.Machine.execAccessWindow s
  | .accessDelay => Sys2Proof.Machine.execAccessDelay s

end Sys2Proof.Machine
end

