-- ==== Sys2Proof/Machine/Step.lean ====
section
/-! DEFINITION. One step of the machine (R61): the next event from outside takes effect; a write to `CMD` is
followed at once, in the same step, by the whole execution of the command. With no event to come the
CORE is idle (R251). -/

namespace Sys2Proof.Machine

/-- The execution of a command word written to `CMD` (R26, R73): `CMD` stores the word, then the command
it encodes runs to completion. -/
def issueCommand (s : State) (w : Word) : Host.Outcome State Fault Refusal :=
  match decode w with
  | .ok i => exec i { s with cmd := w }
  | .error _ => execIllegal { s with cmd := w }

/-- One step of the machine. -/
def step (s : State) : Host.Outcome State Fault Refusal :=
  match s.inputs with
  | [] => .next s
  | e :: rest =>
    match eventMove { s with inputs := rest } e with
    | .stuck f => .fault f
    | .plain t => .next t
    | .issue w => issueCommand { s with inputs := rest } w

/-- `s` with a command word placed where the next step takes it from: the HOST's write of that word to
`CMD` is the next event. Log entry 6. -/
def State.withFetchWord (s : State) (nbits w : Nat) : State :=
  { s with inputs := .write cmdOffset .word (tableWord nbits w) :: s.inputs }

end Sys2Proof.Machine
end

