-- ==== Sys2Proof/Safety.lean ====
section
/-! DEFINITION. The terms in which claims are stated: the invariant of the machine, what a command leaves
unchanged, and how a command completes or fails. -/

namespace Sys2Proof.Machine

/-- The parameters keep their bounds: `1024 ≤ BUF_SIZE ≤ 2^24` (R7), and `DEV_MFR` is a code of three
letters (R29): bit 15 is 0 and each 5-bit group is in 1..26 (R100). -/
def ParamsLegal (s : State) : Prop :=
  1024 ≤ s.bufSize ∧ s.bufSize ≤ 2 ^ 24 ∧ s.dev.mfr.toNat < 2 ^ 15 ∧
    (∀ k : Fin 3, 1 ≤ s.dev.mfr.toNat / 32 ^ k.val % 32 ∧ s.dev.mfr.toNat / 32 ^ k.val % 32 ≤ 26)

/-- Every `(status, cause)` pair R222 lists, by number. -/
def statusCauses : List (Nat × Nat) :=
  [ (1, 1), (2, 1), (2, 2), (2, 3), (3, 1), (3, 2), (3, 3), (3, 4), (3, 5), (4, 1), (4, 2),
    (5, 1), (5, 2), (5, 3), (5, 4), (5, 5), (5, 6), (5, 7), (5, 8) ]

/-- `STATUS` and `ERRINFO` report OK, or a pair of R222 whose block index is 0 unless it is InvalidFraming
with cause 1 or 2 (R24, R25, R222). -/
def ReportLegal (s : State) : Prop :=
  (s.status = 0#32 ∧ s.errinfo = 0#32) ∨
    ((s.status.toNat, s.errinfo.toNat % 256) ∈ statusCauses ∧ s.errinfo.toNat < 2 ^ 24 ∧
      (256 ≤ s.errinfo.toNat → s.status = 2#32 ∧ s.errinfo.toNat % 256 ≤ 2))

/-- The invariant of the machine: legal parameters; a buffer memory in canonical form that lists only
addresses below `BUF_SIZE` (R30); a FrameMode code of R77 in `MODE` (R27: codes 9..15 can never be
stored); a legal report. -/
def State.Inv (s : State) : Prop :=
  ParamsLegal s ∧ Memory.wf s.buf ∧ (∀ c ∈ s.buf, c.1 < s.bufSize) ∧ s.mode.toNat ≤ 8 ∧ ReportLegal s

/-- What no command changes: the argument registers, `CMD`, the device address, the parameters, and the
fields that belong to the outside (R21, R26, R29, R220). -/
def KeepsFixed (s t : State) : Prop :=
  t.a = s.a ∧ t.cmd = s.cmd ∧ t.dev = s.dev ∧ t.bufSize = s.bufSize ∧ t.epoch = s.epoch ∧
    t.readData = s.readData ∧ t.inputs = s.inputs

/-- The configuration state is unchanged (R27, R28). -/
def KeepsConfig (s t : State) : Prop :=
  t.mode = s.mode ∧ t.modeValid = s.modeValid ∧ t.key = s.key ∧ t.keyValid = s.keyValid

/-- Every byte of `BUF` outside the `n` bytes from `p` up reads as before (R224, R59). -/
def KeepsBytesOutside (s t : State) (p n : Nat) : Prop :=
  ∀ a, (a < p ∨ p + n ≤ a) → t.readByte a = s.readByte a

/-- The end of a successful command: `STATUS` OK, `ERRINFO` 0, the results `v` (R74). -/
def EndsOk (t : State) (v : Bank) : Prop := t.status = 0#32 ∧ t.errinfo = 0#32 ∧ t.v = v

/-- The end of a failed command: `STATUS` `st`, `ERRINFO` with cause `c` and index 0, every result register
0 (R220). -/
def EndsFailed (t : State) (st c : Nat) : Prop :=
  t.status.toNat = st ∧ t.errinfo.toNat = c ∧ t.v = {}

/-- The command `i` completes in `s` with the results `v`, having stored the bytes `x` at `p` and changed
no other byte, no configuration and nothing else. -/
def CompletesStoring (i : Instr) (s : State) (v : Bank) (p : Nat) (x : List Byte) : Prop :=
  ∃ t, exec i s = .next t ∧ EndsOk t v ∧ KeepsFixed s t ∧ KeepsConfig s t ∧
    t.memRead p x.length = x ∧ KeepsBytesOutside s t p x.length

/-- The command `i` completes in `s` with the results `v`, having stored nothing and changed no
configuration and nothing else. -/
def CompletesSilently (i : Instr) (s : State) (v : Bank) : Prop :=
  ∃ t, exec i s = .next t ∧ EndsOk t v ∧ KeepsFixed s t ∧ KeepsConfig s t ∧
    ∀ a, t.readByte a = s.readByte a

/-- The command `i` fails in `s` with status `st` and cause `c`, every byte of `BUF`, the configuration and
everything else left as it was (R220, R224). -/
def FailsWith (i : Instr) (s : State) (st c : Nat) : Prop :=
  ∃ t, exec i s = .next t ∧ EndsFailed t st c ∧ KeepsFixed s t ∧ KeepsConfig s t ∧
    ∀ a, t.readByte a = s.readByte a

/-- The command `i` completes in `s` with the results `v`, having stored the bytes `x` at `p` and `y` at `q`
and changed no other byte, no configuration and nothing else. -/
def CompletesStoringTwo (i : Instr) (s : State) (v : Bank) (p : Nat) (x : List Byte) (q : Nat)
    (y : List Byte) : Prop :=
  ∃ t, exec i s = .next t ∧ EndsOk t v ∧ KeepsFixed s t ∧ KeepsConfig s t ∧
    t.memRead p x.length = x ∧ t.memRead q y.length = y ∧
    ∀ a, (a < p ∨ p + x.length ≤ a) → (a < q ∨ q + y.length ≤ a) → t.readByte a = s.readByte a

/-- The command `i` run on the argument registers `b` completes in `s` with `STATUS` OK and leaves `t`. -/
def RunsOk (i : Instr) (b : Bank) (s t : State) : Prop :=
  exec i { s with a := b } = .next t ∧ t.status = 0#32

/-! ### Operands and layouts, as numbers -/

/-- Byte `k` of a register, `k` = 0 for bits 7:0. -/
def wordByte (w : Word) (k : Nat) : Byte := BitVec.ofNat 8 (w.toNat / 256 ^ k)

/-- The length of the header a command builds or parses (R106, R111, R114). -/
def headerLength : Instr → Nat
  | .dllBuild | .dllParse => 10
  | .stlBuild | .stlParse => 5
  | .ltlBuild | .ltlParse => 13
  | _ => 0

/-- The transport-layer header STL_BUILD (R111) or LTL_BUILD (R114) lays out for the argument registers `a`
around the configuration word `cw`. -/
def builtHeader (i : Instr) (a : Bank) (cw : Nat) : List Byte :=
  if i = .ltlBuild then
    [ 0x72#8, wordByte a.r6 0, wordByte a.r6 1, wordByte a.r6 2, wordByte a.r6 3, wordByte a.r7 0,
      wordByte a.r7 1, wordByte a.r7 2, wordByte a.r7 3, wordByte a.r2 1, 0x00#8,
      BitVec.ofNat 8 cw, BitVec.ofNat 8 (cw / 256) ]
  else [0x7A#8, wordByte a.r2 1, 0x00#8, BitVec.ofNat 8 cw, BitVec.ofNat 8 (cw / 256)]

/-- The first eight bytes of the IV a Mode 5 build uses: the CORE's own address for STL_BUILD (R112), the
address in the operands for LTL_BUILD (R115). -/
def builtIvAddress (i : Instr) (s : State) : List Byte :=
  if i = .ltlBuild then
    [ wordByte s.a.r7 0, wordByte s.a.r7 1, wordByte s.a.r6 0, wordByte s.a.r6 1, wordByte s.a.r6 2,
      wordByte s.a.r6 3, wordByte s.a.r7 2, wordByte s.a.r7 3 ]
  else
    [ wordByte (s.dev.mfr.setWidth 32) 0, wordByte (s.dev.mfr.setWidth 32) 1, wordByte s.dev.id 0,
      wordByte s.dev.id 1, wordByte s.dev.id 2, wordByte s.dev.id 3, s.dev.ver, s.dev.type ]

/-- The argument registers with every bit cleared that no operand of the command names (R72): each
command's operands as its rule lists them. -/
def namedOperands (i : Instr) (a : Bank) : Bank :=
  match i with
  | .nop => {}
  | .setMode => { r0 := a.r0 &&& 0xF#32 }
  | .mfrEnc => { r0 := a.r0 &&& 0xFFFFFF#32 }
  | .mfrDec => { r0 := a.r0 &&& 0xFFFF#32 }
  | .cwPack =>
    { r0 := a.r0 &&& 1#32, r1 := a.r1 &&& 1#32, r2 := a.r2 &&& 3#32, r3 := a.r3 &&& 0xF#32,
      r4 := a.r4 &&& 0x1F#32, r5 := a.r5 &&& 1#32, r6 := a.r6 &&& 3#32 }
  | .cwUnpack => { r0 := a.r0 &&& 0xFFFF#32 }
  | .dllBuild =>
    { r0 := a.r0, r1 := a.r1, r2 := a.r2 &&& 0xFFFF#32, r3 := a.r3, r4 := a.r4 &&& 0xFFFF#32,
      r5 := a.r5 &&& 0x17F#32, r6 := a.r6 }
  | .dllParse => { r0 := a.r0, r1 := a.r1 }
  | .stlBuild =>
    { r0 := a.r0, r1 := a.r1, r2 := a.r2 &&& 0x0103FF1F#32, r3 := a.r3, r4 := a.r4, r5 := a.r5 }
  | .stlParse => { r0 := a.r0, r1 := a.r1, r2 := a.r2 }
  | .ltlBuild => { a with r2 := a.r2 &&& 0x0103FF1F#32 }
  | .ltlParse => { r0 := a.r0, r1 := a.r1, r2 := a.r2 }
  | .crc16 => { r0 := a.r0, r1 := a.r1 }
  | .phyEncode => { r0 := a.r0, r1 := a.r1, r2 := a.r2, r3 := a.r3 }
  | .phyDecode => { r0 := a.r0, r1 := a.r1, r2 := a.r2, r3 := a.r3 }
  | .setKey => { r0 := a.r0, r1 := a.r1 }
  | .getKey => { r0 := a.r0, r1 := a.r1 }
  | .deriveIv =>
    { r0 := a.r0, r1 := a.r1, r2 := a.r2 &&& 0xFFFF#32, r3 := a.r3, r4 := a.r4 &&& 0xFFFF#32,
      r5 := a.r5 &&& 0xFF#32 }
  | .encrypt => { a with r7 := 0#32 }
  | .decrypt => { a with r6 := 0#32, r7 := 0#32 }
  | .putRecord => { r0 := a.r0, r1 := a.r1, r2 := a.r2 &&& 0xFF3F#32, r3 := a.r3 }
  | .getRecord => { r0 := a.r0, r1 := a.r1 }
  | .buildMeterFrame =>
    { r0 := a.r0, r1 := a.r1, r2 := a.r2 &&& 0x303FF#32, r3 := a.r3, r4 := a.r4 &&& 0xFFFF#32 }
  | .accessWindow => { r0 := a.r0 &&& 0xF#32, r2 := a.r2 &&& 1#32 }
  | .accessDelay => { r0 := a.r0 &&& 0xFF#32, r1 := a.r1 }

/-! ### The PHY decoder -/

/-- The checks of PHY_DECODE up to the data all pass, for a frame of `n` bytes: T-Meter is selected, the
encoded length is `EncLen(n)`, the ranges lie in `BUF` and do not overlap, and the destination holds the
frame (R148). -/
def PhyDecodeReady (s : State) (n : Nat) : Prop :=
  s.modeValid = true ∧ s.mode = 1#4 ∧ 1 ≤ n ∧ n ≤ 256 ∧ s.a.r1.toNat = encLen n ∧
    s.inBuf s.a.r0 s.a.r1.toNat = true ∧ s.inBuf s.a.r2 s.a.r3.toNat = true ∧
    overlap s.a.r0 s.a.r1.toNat s.a.r2 s.a.r3.toNat = false ∧ n ≤ s.a.r3.toNat

/-- The bit stream PHY_DECODE reads in `s`: stream bit `p` is bit `7 - (p mod 8)` of byte `p div 8` of the
encoded bytes (R148). -/
def encodedBits (s : State) : List Bool := byteStream (s.memRead s.a.r0.toNat s.a.r1.toNat)

/-- The 6-bit code `j` of a bit stream (R148). -/
def streamCode (bits : List Bool) (j : Nat) : BitVec 6 :=
  BitVec.ofNat 6 (fromMsbFirst ((bits.drop (6 * j)).take 6))

/-- The block a stream bit belongs to: the first block holds 12 coded bytes, each later one 18 (R134,
R135). -/
def blockOfBit (p : Nat) : Nat := if p / 12 < 12 then 0 else 1 + (p / 12 - 12) / 18

end Sys2Proof.Machine
end

