-- ==== Sys2Proof/Certificates/Slice0/Obligations.lean ====
section
/-! DEFINITION. The statements for the provers. Each is about the machine: a command's results and what it
leaves unchanged, the bus, reset, the invariant, and the codec's round trips. Addresses, lengths and
fields are written from the argument registers as the spec's rules name them. -/

open Sys2Proof Sys2Proof.Machine

/-! ### Encoding and stepping -/

/-- R70, R71: a word decodes to a command exactly when it is that command's word; so decoding an encoded
command gives it back, and no other word decodes to it. -/
def Obligations.DecodeEncodeAgree : Prop :=
  ∀ (w : Word) (i : Instr), decode w = .ok i ↔ w = encode i

/-- R71: one word of each family decodes to its command, and two illegal words to none. -/
def Obligations.DecodesWordsOfTheTable : Prop :=
  decode 0x00000000#32 = .ok .nop ∧ decode 0x00000014#32 = .ok .dllBuild ∧
    decode 0x00000020#32 = .ok .crc16 ∧ decode 0x00000031#32 = .ok .phyDecode ∧
    decode 0x00000044#32 = .ok .decrypt ∧ decode 0x00000052#32 = .ok .buildMeterFrame ∧
    decode 0x00000101#32 = .error .reservedBitsSet ∧ decode 0x00000002#32 = .error .unassignedOpcode

/-- R26, R61: a HOST write of a word to `CMD` stores the word and runs the command it decodes to, in the
same step. -/
def Obligations.StepRunsDecodedCommand : Prop :=
  ∀ (s : State) (w : Word) (i : Instr) (rest : List Event),
    s.inputs = .write 0x000 .word w :: rest → decode w = .ok i →
      step s = exec i { s with cmd := w, inputs := rest }

/-- R73: a word whose `RSV` is not 0 or whose `OPC` is unassigned executes nothing: `STATUS` is
Unsupported, the cause 1, every result 0, and nothing else changes but `CMD`, which stores the word. -/
def Obligations.IllegalWordOnlyReports : Prop :=
  ∀ (s : State) (w : Word) (rest : List Event),
    s.inputs = .write 0x000 .word w :: rest →
    (256 ≤ w.toNat ∨ (2 ≤ w.toNat ∧ w.toNat ≤ 0x0F) ∨ (0x1A ≤ w.toNat ∧ w.toNat ≤ 0x1F) ∨
      (0x21 ≤ w.toNat ∧ w.toNat ≤ 0x2F) ∨ (0x32 ≤ w.toNat ∧ w.toNat ≤ 0x3F) ∨
      (0x45 ≤ w.toNat ∧ w.toNat ≤ 0x4F) ∨ (0x55 ≤ w.toNat ∧ w.toNat ≤ 0xFF)) →
      step s = .next { s with cmd := w, inputs := rest, v := {}, status := 5#32, errinfo := 1#32 }

/-! ### Reset -/

/-- R33, R251: what reset leaves, and that nothing runs until something arrives. That a byte of `BUF` reads
as the free value of its address is the model's form of 'unspecified' (log entry 2); that an idle step
leaves the state as it is is the model's choice (log entry 7). -/
def Obligations.ResetHoldsTheResetValues : Prop :=
  (∀ k : Fin 8, State.reset.a.get k = 0#32 ∧ State.reset.v.get k = 0#32) ∧ State.reset.cmd = 0#32 ∧
    State.reset.status = 0#32 ∧ State.reset.errinfo = 0#32 ∧ State.reset.modeValid = false ∧
    State.reset.keyValid = false ∧ State.reset.modestat = 0#32 ∧
    State.reset.dev = ⟨Config.devMfr, Config.devId, Config.devVer, Config.devType⟩ ∧
    (∀ k, State.reset.readByte k = Config.bufContents 0 k) ∧ step State.reset = .next State.reset

/-- R250: the reset event puts every state element at its reset value and keeps the constants; the bytes
of `BUF` are unspecified anew (the model's free values, log entry 2), and what is still to arrive from
outside stays to arrive (log entry 7). -/
def Obligations.ResetEventRestoresResetValues : Prop :=
  ∀ (s : State) (rest : List Event), s.inputs = .reset :: rest →
    ∃ t, step s = .next t ∧ (∀ k : Fin 8, t.a.get k = 0#32 ∧ t.v.get k = 0#32) ∧ t.cmd = 0#32 ∧
      t.status = 0#32 ∧ t.errinfo = 0#32 ∧ t.modeValid = false ∧ t.keyValid = false ∧
      t.dev = s.dev ∧ t.bufSize = s.bufSize ∧ t.inputs = rest ∧
      ∀ k, t.readByte k = Config.bufContents (s.epoch + 1) k

/-! ### The invariant -/

/-- R7, R24, R25, R27, R29, R30: the invariant holds right after reset. Two of its clauses are the model's
choice: that `MODE`, which R33 gives no value while it is invalid, holds a code of at most 8 (log entry 1), and
that the memory is a list in canonical form (log entry 2). -/
def Obligations.InvariantHoldsAtReset : Prop := State.reset.Inv

/-- R7, R24, R25, R27, R29, R30, R222: every step, whatever arrives, keeps the parameters legal, the
memory in canonical form and inside `BUF`, `MODE` a FrameMode code, and the report a pair of R222. Two of these
clauses are the model's choice: after a reset event `MODE`, which R33 gives no value while it is invalid, holds a
code of at most 8 (log entry 1), and the memory is a list in canonical form (log entry 2). -/
def Obligations.InvariantKeptByEveryStep : Prop :=
  ∀ s t : State, s.Inv → step s = .next t → t.Inv

/-! ### The HOST bus -/

/-- R51: an aligned HOST write to the register space, other than to `CMD`, sets the one argument register
at its offset; at a read-only or reserved offset it is ignored; it changes nothing else. -/
def Obligations.HostWriteSetsOneArgument : Prop :=
  ∀ (s : State) (rest : List Event) (off : Nat) (x : Word),
    s.inputs = .write off .word x :: rest → off < 0x1000 → off % 4 = 0 → off ≠ 0x000 →
      ∃ t, step s = .next t ∧ t = { s with inputs := rest, a := t.a } ∧
        ∀ k : Fin 8, t.a.get k = if off = 0x020 + 4 * k.val then x else s.a.get k

/-- R51: an aligned HOST read of the register space returns the register at its offset, 0 at a reserved
offset, and has no other effect (the datum returned stands in the model's `readData`, log entry 7). -/
def Obligations.HostReadReturnsTheBusMap : Prop :=
  ∀ (s : State) (rest : List Event) (off : Nat),
    s.inputs = .read off .word :: rest → off < 0x1000 → off % 4 = 0 →
      ∃ t, step s = .next t ∧ t = { s with inputs := rest, readData := t.readData } ∧
        (off = 0x000 → t.readData = s.cmd) ∧ (off = 0x004 → t.readData = s.status) ∧
        (off = 0x008 → t.readData = s.errinfo) ∧
        (off = 0x00C → t.readData.toNat = if s.modeValid then 256 + s.mode.toNat else 0) ∧
        (off = 0x010 → t.readData.toNat = if s.keyValid then 1 else 0) ∧
        (off = 0x014 → t.readData.toNat = s.dev.mfr.toNat) ∧ (off = 0x018 → t.readData = s.dev.id) ∧
        (off = 0x01C → t.readData.toNat = s.dev.ver.toNat + 256 * s.dev.type.toNat) ∧
        (∀ k : Fin 8, off = 0x020 + 4 * k.val → t.readData = s.a.get k) ∧
        (∀ k : Fin 8, off = 0x040 + 4 * k.val → t.readData = s.v.get k) ∧
        (0x060 ≤ off → t.readData = 0#32)

/-- R51, R53: an aligned HOST write of 1, 2 or 4 bytes to the buffer window stores the low bytes of the
datum, the lowest offset taking bits 7:0, and nothing else, and a read of the same bytes then returns the datum;
an aligned HOST read, in every state, returns the bytes of `BUF` as they stand, the lowest offset in bits 7:0,
and changes nothing else (the datum returned stands in the model's `readData`, log entry 7). That 16- and 32-bit
accesses to the window exist is the model's reading (log entry 8). -/
def Obligations.HostWindowIsLittleEndian : Prop :=
  (∀ (s : State) (rest : List Event) (p : Nat) (size : AccessSize) (x : Word), Memory.wf s.buf →
    s.inputs = .write (0x1000 + p) size x :: rest → p % size.bytes = 0 → p + size.bytes ≤ s.bufSize →
      ∃ t, step s = .next t ∧ t = { s with inputs := rest, buf := t.buf } ∧
        (∀ k, k < size.bytes → t.readByte (p + k) = wordByte x k) ∧
        KeepsBytesOutside s t p size.bytes ∧
        step { t with inputs := [.read (0x1000 + p) size] } =
          .next { t with inputs := [], readData := BitVec.ofNat 32 (x.toNat % 256 ^ size.bytes) }) ∧
  ∀ (s : State) (rest : List Event) (p : Nat) (size : AccessSize),
    s.inputs = .read (0x1000 + p) size :: rest → p % size.bytes = 0 → p + size.bytes ≤ s.bufSize →
      let b := fun k => (s.readByte (p + k)).toNat
      step s = .next { s with
        inputs := rest
        readData := BitVec.ofNat 32 (match size with
          | .byte => b 0
          | .half => b 0 + 256 * b 1
          | .word => b 0 + 256 * b 1 + 65536 * b 2 + 16777216 * b 3) }

/-- R54, R60 (93_implementation_defined.md I11b, I12): a HOST access to the register space that is not an
aligned 32-bit word, or to a byte at or beyond offset 0x1000 + `BUF_SIZE`, is no move of the HOST: the
machine has no step for it. That this holds of the reserved offsets 0x060..0xFFF too is the model's choice (log
entry 13): the spec leaves narrow and misaligned accesses there open. -/
def Obligations.HostNonMovesHaveNoStep : Prop :=
  ∀ (s : State) (rest : List Event) (off : Nat) (size : AccessSize) (x : Word),
    (s.inputs = .write off size x :: rest ∨ s.inputs = .read off size :: rest) →
    ((off < 0x1000 ∧ (size ≠ .word ∨ off % 4 ≠ 0)) ∨
      (0x1000 ≤ off ∧ 0x1000 + s.bufSize < off + size.bytes)) →
      ∃ f, step s = .fault f

/-! ### Every command -/

/-- R231: for every state and every word written to `CMD`, the command terminates and leaves one status: OK
with `ERRINFO` 0, or a pair R222 lists. `CMD` holds the word. -/
def Obligations.EveryCommandWriteCompletes : Prop :=
  ∀ (s : State) (w : Word) (rest : List Event), s.inputs = .write 0x000 .word w :: rest →
    ∃ t, step s = .next t ∧ ReportLegal t ∧ t.cmd = w ∧ t.inputs = rest

/-- R21, R27, R28, R29, R220: no command changes the argument registers, `CMD` or the device address; only
SET_MODE changes `MODE`, only SET_KEY changes `KEY`; no command invalidates either. -/
def Obligations.CommandsKeepArgumentsAndConfiguration : Prop :=
  ∀ (i : Instr) (s t : State), exec i s = .next t →
    KeepsFixed s t ∧ (i ≠ .setMode → t.mode = s.mode ∧ t.modeValid = s.modeValid) ∧
      (i ≠ .setKey → t.key = s.key ∧ t.keyValid = s.keyValid) ∧
      (s.modeValid = true → t.modeValid = true) ∧ (s.keyValid = true → t.keyValid = true)

/-- R220, R224: a command that fails changes nothing but the report and the results, which are all 0; the
one exception is PHY_DECODE. -/
def Obligations.FailedCommandsLeaveOutputsUntouched : Prop :=
  ∀ (i : Instr) (s t : State), i ≠ .phyDecode → exec i s = .next t → t.status ≠ 0#32 →
    t = { s with v := {}, status := t.status, errinfo := t.errinfo }

/-- R22, R24, R25, R226: no command reads `STATUS`, `ERRINFO` or a result register: what an earlier command
reported does not change how a later one behaves. -/
def Obligations.CommandsIgnoreTheLastReport : Prop :=
  ∀ (i : Instr) (s : State) (v : Bank) (st e : Word),
    exec i { s with v := v, status := st, errinfo := e } = exec i s

/-- R28, R33: while `KEY_VALID` is 0 the contents of `KEY` have no effect on any command. -/
def Obligations.KeyUnobservableWhileInvalid : Prop :=
  ∀ (i : Instr) (s t : State) (k : Block), s.keyValid = false → exec i s = .next t →
    exec i { s with key := k } = .next (if t.keyValid then t else { t with key := k })

/-- R91: `MODE` has no effect on any command but PHY_ENCODE and PHY_DECODE (and SET_MODE, which writes
it). -/
def Obligations.FrameModeActsOnPhyOnly : Prop :=
  ∀ (i : Instr) (s t : State) (m : BitVec 4) (mv : Bool),
    i ≠ .setMode → i ≠ .phyEncode → i ≠ .phyDecode → exec i s = .next t →
      exec i { s with mode := m, modeValid := mv } = .next { t with mode := m, modeValid := mv }

/-- R72: bits of an argument register that the command's rule does not name do not affect the command. -/
def Obligations.UnnamedOperandBitsIgnored : Prop :=
  ∀ (i : Instr) (s t : State), exec i s = .next t →
    exec i { s with a := namedOperands i s.a } = .next { t with a := namedOperands i s.a }

/-! ### Configuration commands -/

/-- R90: NOP clears the result registers, `STATUS` and `ERRINFO`, and does nothing else. -/
def Obligations.NopClearsTheReport : Prop :=
  encode .nop = 0x00#32 ∧ ∀ s : State, CompletesSilently .nop s {}

/-- R91: SET_MODE stores a FrameMode code of 0..8 and makes it valid; a code above 8 is refused and changes
nothing. -/
def Obligations.SetModeSelectsFrameMode : Prop :=
  encode .setMode = 0x01#32 ∧ ∀ s : State,
    if s.a.r0.toNat % 16 ≤ 8 then
      ∃ t, exec .setMode s = .next t ∧ EndsOk t {} ∧ KeepsFixed s t ∧
        t.mode.toNat = s.a.r0.toNat % 16 ∧ t.modeValid = true ∧ t.key = s.key ∧
        t.keyValid = s.keyValid ∧ ∀ k, t.readByte k = s.readByte k
    else FailsWith .setMode s 5 2

/-! ### Header Model -/

/-- R101: MFR_ENC packs three letters `A`..`Z`, the first in bits 14:10, and refuses anything else. -/
def Obligations.MfrEncPacksLetters : Prop :=
  encode .mfrEnc = 0x10#32 ∧ ∀ s : State,
    let l1 := s.a.r0.toNat % 256
    let l2 := s.a.r0.toNat / 256 % 256
    let l3 := s.a.r0.toNat / 65536 % 256
    if (0x41 ≤ l1 ∧ l1 ≤ 0x5A) ∧ (0x41 ≤ l2 ∧ l2 ≤ 0x5A) ∧ (0x41 ≤ l3 ∧ l3 ≤ 0x5A) then
      CompletesSilently .mfrEnc s
        { r0 := BitVec.ofNat 32 ((l1 - 64) * 1024 + (l2 - 64) * 32 + (l3 - 64)) }
    else FailsWith .mfrEnc s 5 2

/-- R102: MFR_DEC unpacks a code made of three letters and refuses every other code. -/
def Obligations.MfrDecUnpacksLetters : Prop :=
  encode .mfrDec = 0x11#32 ∧ ∀ s : State,
    let c := s.a.r0.toNat % 65536
    let g1 := c / 1024 % 32
    let g2 := c / 32 % 32
    let g3 := c % 32
    if c < 32768 ∧ (1 ≤ g1 ∧ g1 ≤ 26) ∧ (1 ≤ g2 ∧ g2 ≤ 26) ∧ (1 ≤ g3 ∧ g3 ≤ 26) then
      CompletesSilently .mfrDec s
        { r0 := BitVec.ofNat 32 ((g1 + 64) + 256 * (g2 + 64) + 65536 * (g3 + 64)) }
    else FailsWith .mfrDec s 5 2

/-- R100: on letters, `mfrEnc` is the number R100 gives and `mfrDec` undoes it; on codes of three letters,
`mfrDec` gives R100's letters and `mfrEnc` undoes it. -/
def Obligations.ManufacturerCodeRoundTrip : Prop :=
  (∀ l : Letters, isLetter l.l1 = true → isLetter l.l2 = true → isLetter l.l3 = true →
    (mfrEnc l).toNat = (l.l1.toNat - 64) * 1024 + (l.l2.toNat - 64) * 32 + (l.l3.toNat - 64) ∧
      isMfrCode (mfrEnc l) = true ∧ mfrDec (mfrEnc l) = l) ∧
  ∀ c : BitVec 16, isMfrCode c = true →
    (mfrDec c).l1.toNat = c.toNat / 1024 % 32 + 64 ∧ (mfrDec c).l2.toNat = c.toNat / 32 % 32 + 64 ∧
      (mfrDec c).l3.toNat = c.toNat % 32 + 64 ∧ isLetter (mfrDec c).l1 = true ∧
      isLetter (mfrDec c).l2 = true ∧ isLetter (mfrDec c).l3 = true ∧ mfrEnc (mfrDec c) = c

/-- R104: CW_PACK places each field at its bits for security mode 0 or 5 and refuses every other mode. -/
def Obligations.CwPackPlacesFields : Prop :=
  encode .cwPack = 0x12#32 ∧ ∀ s : State,
    let m := s.a.r4.toNat % 32
    if m = 0 ∨ m = 5 then
      CompletesSilently .cwPack s
        { r0 := BitVec.ofNat 32 (s.a.r0.toNat % 2 + 2 * (s.a.r1.toNat % 2) + 4 * (s.a.r2.toNat % 4) +
            16 * (s.a.r3.toNat % 16) + 256 * m + 8192 * (s.a.r5.toNat % 2) +
            16384 * (s.a.r6.toNat % 4)) }
    else FailsWith .cwPack s 5 5

/-- R105: CW_UNPACK returns the seven fields of a word of security mode 0 or 5 and refuses every other. -/
def Obligations.CwUnpackReturnsFields : Prop :=
  encode .cwUnpack = 0x13#32 ∧ ∀ s : State,
    let cw := s.a.r0.toNat % 65536
    if cw / 256 % 32 = 0 ∨ cw / 256 % 32 = 5 then
      CompletesSilently .cwUnpack s
        { r0 := BitVec.ofNat 32 (cw % 2), r1 := BitVec.ofNat 32 (cw / 2 % 2),
          r2 := BitVec.ofNat 32 (cw / 4 % 4), r3 := BitVec.ofNat 32 (cw / 16 % 16),
          r4 := BitVec.ofNat 32 (cw / 256 % 32), r5 := BitVec.ofNat 32 (cw / 8192 % 2),
          r6 := BitVec.ofNat 32 (cw / 16384) }
    else FailsWith .cwUnpack s 5 5

/-- R105: CW_UNPACK of what a successful CW_PACK returned returns CW_PACK's operands, and CW_PACK of the
results of a successful CW_UNPACK returns the word. -/
def Obligations.ConfigurationWordRoundTrip : Prop :=
  (∀ (s t : State) (b : Bank), exec .cwPack s = .next t → t.status = 0#32 → b.r0 = t.v.r0 →
    CompletesSilently .cwUnpack { t with a := b }
      { r0 := BitVec.ofNat 32 (s.a.r0.toNat % 2), r1 := BitVec.ofNat 32 (s.a.r1.toNat % 2),
        r2 := BitVec.ofNat 32 (s.a.r2.toNat % 4), r3 := BitVec.ofNat 32 (s.a.r3.toNat % 16),
        r4 := BitVec.ofNat 32 (s.a.r4.toNat % 32), r5 := BitVec.ofNat 32 (s.a.r5.toNat % 2),
        r6 := BitVec.ofNat 32 (s.a.r6.toNat % 4) }) ∧
  ∀ s t : State, exec .cwUnpack s = .next t → t.status = 0#32 →
    CompletesSilently .cwPack { t with a := t.v } { r0 := BitVec.ofNat 32 (s.a.r0.toNat % 65536) }

/-- R109 with R106, R107, R108: DLL_BUILD writes the ten bytes of the header at `dst` and nothing else, in
the order of its checks range, `lField`, capacity. -/
def Obligations.DllBuildWritesHeader : Prop :=
  encode .dllBuild = 0x14#32 ∧ ∀ s : State, Memory.wf s.buf →
    let t := s.a.r6.toNat
    let frameB := s.a.r5.toNat / 256 % 2 = 1
    let l : Int := if frameB then (if t < 125 then (t : Int) + 1 else (t : Int) + 3) else (t : Int) - 1
    if s.inBuf s.a.r0 s.a.r1.toNat = false then FailsWith .dllBuild s 5 3
    else if l < 0 ∨ 255 < l then FailsWith .dllBuild s 4 1
    else if s.a.r1.toNat < 10 then FailsWith .dllBuild s 1 1
    else
      CompletesStoring .dllBuild s { r0 := 10#32, r1 := BitVec.ofInt 32 l } s.a.r0.toNat
        [ BitVec.ofInt 8 l, BitVec.ofNat 8 (s.a.r5.toNat % 128), wordByte s.a.r2 0, wordByte s.a.r2 1,
          wordByte s.a.r3 0, wordByte s.a.r3 1, wordByte s.a.r3 2, wordByte s.a.r3 3,
          wordByte s.a.r4 0, wordByte s.a.r4 1 ]

/-- R110: DLL_PARSE returns the six fields of the ten bytes at `src`, validating none. -/
def Obligations.DllParseReturnsFields : Prop :=
  encode .dllParse = 0x15#32 ∧ ∀ s : State,
    let b := fun k => (s.readByte (s.a.r0.toNat + k)).toNat
    if s.a.r1.toNat < 10 then FailsWith .dllParse s 5 8
    else if s.inBuf s.a.r0 s.a.r1.toNat = false then FailsWith .dllParse s 5 3
    else
      CompletesSilently .dllParse s
        { r0 := BitVec.ofNat 32 (b 0), r1 := BitVec.ofNat 32 (b 1),
          r2 := BitVec.ofNat 32 (b 2 + 256 * b 3),
          r3 := BitVec.ofNat 32 (b 4 + 256 * b 5 + 65536 * b 6 + 16777216 * b 7),
          r4 := BitVec.ofNat 32 (b 8), r5 := BitVec.ofNat 32 (b 9) }

/-- R110: DLL_PARSE of the bytes a successful DLL_BUILD wrote returns DLL_BUILD's operands, with `V0` the
`lField`. -/
def Obligations.DllParseInvertsDllBuild : Prop :=
  ∀ (s t : State) (b : Bank), Memory.wf s.buf → exec .dllBuild s = .next t → t.status = 0#32 →
    b.r0 = s.a.r0 → 10 ≤ b.r1.toNat → t.inBuf b.r0 b.r1.toNat = true →
      CompletesSilently .dllParse { t with a := b }
        { r0 := t.v.r1, r1 := BitVec.ofNat 32 (s.a.r5.toNat % 128),
          r2 := BitVec.ofNat 32 (s.a.r2.toNat % 65536), r3 := s.a.r3,
          r4 := BitVec.ofNat 32 (s.a.r4.toNat % 256), r5 := BitVec.ofNat 32 (s.a.r4.toNat / 256 % 256) }

/-- R112, R115 in security mode 0: STL_BUILD and LTL_BUILD write their header around a configuration word
without encrypted blocks, return the payload length as given, and look at no payload operand; a mode other
than 0 or 5 is refused first. -/
def Obligations.TransportBuildWithoutEncryption : Prop :=
  encode .stlBuild = 0x16#32 ∧ encode .ltlBuild = 0x18#32 ∧
  ∀ (i : Instr) (s : State), (i = .stlBuild ∨ i = .ltlBuild) → Memory.wf s.buf →
    s.a.r2.toNat % 32 ≠ 5 →
    let cw := 8192 * (s.a.r2.toNat / 2 ^ 24 % 2) + 16384 * (s.a.r2.toNat / 2 ^ 16 % 4)
    if s.a.r2.toNat % 32 ≠ 0 then FailsWith i s 5 5
    else if s.inBuf s.a.r0 s.a.r1.toNat = false then FailsWith i s 5 3
    else if s.a.r1.toNat < headerLength i then FailsWith i s 1 1
    else
      CompletesStoring i s
        { r0 := BitVec.ofNat 32 (headerLength i), r1 := s.a.r4, r2 := BitVec.ofNat 32 cw }
        s.a.r0.toNat (builtHeader i s.a cw)

/-- R112, R115 in Mode 5, with R117: the payload is replaced by its ciphertext under `KEY` and the IV
derived from the unit's address and the access number, the header's `numOfEncBlocks` is the number of
ciphertext blocks `ceil(plen / 16)`, and the checks are made in the order of R223. -/
def Obligations.TransportBuildWithEncryption : Prop :=
  ∀ (i : Instr) (s : State), (i = .stlBuild ∨ i = .ltlBuild) → Memory.wf s.buf →
    s.a.r2.toNat % 32 = 5 →
    let bc := (s.a.r4.toNat + 15) / 16
    let cw := 16 * bc + 256 * 5 + 8192 * (s.a.r2.toNat / 2 ^ 24 % 2) +
      16384 * (s.a.r2.toNat / 2 ^ 16 % 4)
    if s.a.r3 = nullAddr then FailsWith i s 3 1
    else if s.a.r4 = 0#32 then FailsWith i s 3 2
    else if s.keyValid = false then FailsWith i s 3 3
    else if s.inBuf s.a.r0 s.a.r1.toNat = false ∨ s.inBuf s.a.r3 s.a.r5.toNat = false then
      FailsWith i s 5 3
    else if overlap s.a.r0 s.a.r1.toNat s.a.r3 s.a.r5.toNat = true then FailsWith i s 5 4
    else if 15 < bc then FailsWith i s 4 2
    else if s.a.r1.toNat < headerLength i ∨ s.a.r5.toNat < 16 * bc then FailsWith i s 1 1
    else
      CompletesStoringTwo i s
        { r0 := BitVec.ofNat 32 (headerLength i), r1 := BitVec.ofNat 32 (16 * bc),
          r2 := BitVec.ofNat 32 cw, r3 := BitVec.ofNat 32 bc }
        s.a.r0.toNat (builtHeader i s.a cw) s.a.r3.toNat
        (cbcEncrypt s.key (builtIvAddress i s ++ List.replicate 8 (wordByte s.a.r2 1))
          (s.memRead s.a.r3.toNat s.a.r4.toNat ++
            List.replicate (16 * bc - s.a.r4.toNat) 0x2F#8))

/-- R113, R116: STL_PARSE and LTL_PARSE return the header's fields, check its security mode and, in Mode 5,
`numOfEncBlocks` against the payload length; the CI byte is returned, not checked. -/
def Obligations.TransportParseReturnsFields : Prop :=
  encode .stlParse = 0x17#32 ∧ encode .ltlParse = 0x19#32 ∧
  ∀ (i : Instr) (s : State), (i = .stlParse ∨ i = .ltlParse) →
    let n := headerLength i
    let b := fun k => (s.readByte (s.a.r0.toNat + k)).toNat
    let cw := b (n - 2) + 256 * b (n - 1)
    if s.a.r1.toNat < n then FailsWith i s 5 8
    else if s.inBuf s.a.r0 s.a.r1.toNat = false then FailsWith i s 5 3
    else if cw / 256 % 32 ≠ 0 ∧ cw / 256 % 32 ≠ 5 then FailsWith i s 5 5
    else if cw / 256 % 32 = 5 ∧ cw / 16 % 16 ≠ (s.a.r2.toNat + 15) / 16 then FailsWith i s 4 2
    else if i = .stlParse then
      CompletesSilently i s
        { r0 := BitVec.ofNat 32 (b 0), r1 := BitVec.ofNat 32 (b 1), r2 := BitVec.ofNat 32 (b 2),
          r3 := BitVec.ofNat 32 cw }
    else
      CompletesSilently i s
        { r0 := BitVec.ofNat 32 (b 0), r1 := BitVec.ofNat 32 (b 9), r2 := BitVec.ofNat 32 (b 10),
          r3 := BitVec.ofNat 32 cw,
          r4 := BitVec.ofNat 32 (b 1 + 256 * b 2 + 65536 * b 3 + 16777216 * b 4),
          r5 := BitVec.ofNat 32 (b 5 + 256 * b 6), r6 := BitVec.ofNat 32 (b 7),
          r7 := BitVec.ofNat 32 (b 8) }

/-! ### CRC Engine -/

/-- R133: CRC16 returns the CRC of exactly the bytes of its range and stores nothing; the empty range needs
no address and has CRC 0xFFFF; leading zero bytes do not change a CRC. -/
def Obligations.Crc16ReturnsTheCrc : Prop :=
  encode .crc16 = 0x20#32 ∧ crc16 [] = 0xFFFF#16 ∧
  (∀ (k : Nat) (x : List Byte), crc16 (List.replicate k 0x00#8 ++ x) = crc16 x) ∧ ∀ s : State,
    if s.a.r1.toNat ≠ 0 ∧ (s.a.r0 = nullAddr ∨ s.bufSize < s.a.r0.toNat + s.a.r1.toNat) then
      FailsWith .crc16 s 5 3
    else
      CompletesSilently .crc16 s
        { r0 := BitVec.ofNat 32 (crc16 (s.memRead s.a.r0.toNat s.a.r1.toNat)).toNat }

/-- R131: the accelerator reading of the CRC and the CRC of R130 are the same function. -/
def Obligations.CrcReflectedReadingAgrees : Prop := ∀ x : List Byte, crc16Refl x = crc16 x

/-- R130, R150(b): the CRC tells two sequences apart that differ in one byte. -/
def Obligations.CrcTellsOneByteApart : Prop :=
  ∀ (x z : List Byte) (b c : Byte), b ≠ c → crc16 (x ++ b :: z) ≠ crc16 (x ++ c :: z)

/-- R134, R135: where the bytes of a frame and the CRCs of its blocks stand in `WithCrc`: frame byte `k`
after as many CRCs as blocks precede its own, each block's CRC after the block, high byte first. -/
def Obligations.WithCrcLayout : Prop :=
  ∀ x : List Byte, 1 ≤ x.length →
    let blocksOf := if x.length ≤ 10 then 1 else 1 + (x.length - 10 + 15) / 16
    let start := fun j => if j = 0 then 0 else 10 + 16 * (j - 1)
    let stop := fun j => min x.length (10 + 16 * j)
    (withCrc x).length = x.length + 2 * blocksOf ∧
    (∀ k, k < x.length →
      (withCrc x).getD (k + 2 * (if k < 10 then 0 else 1 + (k - 10) / 16)) 0#8 = x.getD k 0#8) ∧
    ∀ j, j < blocksOf →
      (withCrc x).getD (stop j + 2 * j) 0#8 =
          BitVec.ofNat 8 ((crc16 ((x.drop (start j)).take (stop j - start j))).toNat / 256) ∧
        (withCrc x).getD (stop j + 2 * j + 1) 0#8 =
          BitVec.ofNat 8 (crc16 ((x.drop (start j)).take (stop j - start j))).toNat

/-! ### PHY -/

/-- R142, R144: bit by bit, the encoded form of a frame holds the codes of its bytes, high nibble first,
each code's bit 5 first and stream bit `8i` in bit 7 of byte `i`; the rest is the postamble byte or
nibble. -/
def Obligations.EncodedStreamHoldsTheCodes : Prop :=
  ∀ x : List Byte, 1 ≤ x.length → x.length ≤ 256 →
    let w := withCrc x
    let e := phyEncode x
    let bit := fun p => (e.getD (p / 8) 0#8).getLsbD (7 - p % 8)
    (∀ k j, k < w.length → j < 6 →
      bit (12 * k + j) = (t3of6 ((w.getD k 0#8).extractLsb' 4 4)).getLsbD (5 - j) ∧
        bit (12 * k + 6 + j) = (t3of6 ((w.getD k 0#8).extractLsb' 0 4)).getLsbD (5 - j)) ∧
    if w.length % 2 = 0 then
      e.length = 3 * w.length / 2 + 1 ∧
        e.getD (e.length - 1) 0#8 =
          if (e.getD (e.length - 2) 0#8).getLsbD 0 = false then 0x55#8 else 0xAA#8
    else
      e.length = (3 * w.length - 1) / 2 + 1 ∧
        (e.getD (e.length - 1) 0#8).extractLsb' 0 4 =
          if (e.getD (e.length - 1) 0#8).getLsbD 4 = false then 0x5#4 else 0xA#4

/-- R147: `DecLen` undoes `EncLen` for frames of 1..256 bytes and fails for every other encoded length. -/
def Obligations.DecLenInvertsEncLen : Prop :=
  ∀ e n : Nat, decLen e = some n ↔ 1 ≤ n ∧ n ≤ 256 ∧ encLen n = e

/-- R145, R146: PHY_ENCODE in T-Meter writes the encoded form of the frame at `dst`, `EncLen(n)` bytes and
no other; in every other mode it returns the input length and the source address and touches nothing;
the checks are in the order of R223. -/
def Obligations.PhyEncodeWritesEncodedFrame : Prop :=
  encode .phyEncode = 0x30#32 ∧ ∀ s : State, Memory.wf s.buf →
    let n := s.a.r1.toNat
    if s.modeValid = false then FailsWith .phyEncode s 5 7
    else if s.mode ≠ 1#4 then CompletesSilently .phyEncode s { r0 := s.a.r1, r1 := s.a.r0 }
    else if n = 0 ∨ 256 < n then FailsWith .phyEncode s 5 8
    else if s.inBuf s.a.r0 n = false ∨ s.inBuf s.a.r2 s.a.r3.toNat = false then
      FailsWith .phyEncode s 5 3
    else if overlap s.a.r0 n s.a.r2 s.a.r3.toNat = true then FailsWith .phyEncode s 5 4
    else if s.a.r3.toNat < encLen n then FailsWith .phyEncode s 1 1
    else
      CompletesStoring .phyEncode s
        { r0 := BitVec.ofNat 32 (encLen n), r1 := s.a.r2, r2 := BitVec.ofNat 32 (numBlocks n) }
        s.a.r2.toNat (phyEncode (s.memRead s.a.r0.toNat n))

/-- R146, R148: PHY_DECODE passes through in every mode but T-Meter; in T-Meter it refuses, in the order of
R223, ranges outside `BUF`, an overlap, an encoded length that no frame has, and too small a
destination. Past these checks it is ready for the data. -/
def Obligations.PhyDecodeChecksBeforeData : Prop :=
  encode .phyDecode = 0x31#32 ∧ ∀ s : State,
    if s.modeValid = false then FailsWith .phyDecode s 5 7
    else if s.mode ≠ 1#4 then CompletesSilently .phyDecode s { r0 := s.a.r1, r1 := s.a.r0 }
    else if s.inBuf s.a.r0 s.a.r1.toNat = false ∨ s.inBuf s.a.r2 s.a.r3.toNat = false then
      FailsWith .phyDecode s 5 3
    else if overlap s.a.r0 s.a.r1.toNat s.a.r2 s.a.r3.toNat = true then FailsWith .phyDecode s 5 4
    else if ∀ k : Fin 256, encLen (k.val + 1) ≠ s.a.r1.toNat then FailsWith .phyDecode s 2 3
    else ∃ n, 1 ≤ n ∧ n ≤ 256 ∧ encLen n = s.a.r1.toNat ∧
      if s.a.r3.toNat < n then FailsWith .phyDecode s 1 1 else PhyDecodeReady s n

/-- R148, R147: PHY_DECODE of a stream whose code bits are those of a frame with its block CRCs completes
and writes that frame; the postamble, the bits beyond the codes, may hold anything. -/
def Obligations.PhyDecodeRecoversFrame : Prop :=
  ∀ (s : State) (x : List Byte), Memory.wf s.buf → PhyDecodeReady s x.length →
    (encodedBits s).take (12 * (withCrc x).length) = codeStream (withCrc x) →
      CompletesStoring .phyDecode s
        { r0 := BitVec.ofNat 32 x.length, r1 := s.a.r2, r2 := BitVec.ofNat 32 (numBlocks x.length) }
        s.a.r2.toNat x

/-- R150(d): PHY_DECODE of what a successful PHY_ENCODE in T-Meter wrote, with `e` its `V0`, succeeds and
writes the frame. -/
def Obligations.PhyRoundTrip : Prop :=
  ∀ (s t : State) (b : Bank), Memory.wf s.buf → s.mode = 1#4 → exec .phyEncode s = .next t →
    t.status = 0#32 → b.r0 = s.a.r2 → b.r1 = t.v.r0 → t.inBuf b.r2 b.r3.toNat = true →
    overlap b.r0 b.r1.toNat b.r2 b.r3.toNat = false → s.a.r1.toNat ≤ b.r3.toNat →
      CompletesStoring .phyDecode { t with a := b }
        { r0 := s.a.r1, r1 := b.r2, r2 := t.v.r2 } b.r2.toNat (s.memRead s.a.r0.toNat s.a.r1.toNat)

/-- R150(a): flipping one bit inside the code bits of an encoded frame is detected as an invalid code, in
the block that holds the bit. -/
def Obligations.SingleBitFlipDetected : Prop :=
  ∀ (s : State) (x : List Byte) (p : Nat), PhyDecodeReady s x.length → p < 12 * (withCrc x).length →
    (encodedBits s).take (12 * (withCrc x).length) = (codeStream (withCrc x)).modify p (fun b => !b) →
      ∃ t, exec .phyDecode s = .next t ∧ t.status = 2#32 ∧
        t.errinfo.toNat = 256 * blockOfBit p + 1

/-- R150(b): replacing one code of an encoded frame by a different valid code is detected as a CRC mismatch,
in the block that holds the code. -/
def Obligations.CodeReplacementDetected : Prop :=
  ∀ (s : State) (x : List Byte) (j : Nat) (c : BitVec 4), PhyDecodeReady s x.length →
    j < 2 * (withCrc x).length → t3of6 c ≠ streamCode (codeStream (withCrc x)) j →
    (encodedBits s).take (12 * (withCrc x).length) =
      (codeStream (withCrc x)).take (6 * j) ++ msbFirst 6 (t3of6 c) ++
        (codeStream (withCrc x)).drop (6 * j + 6) →
      ∃ t, exec .phyDecode s = .next t ∧ t.status = 2#32 ∧
        t.errinfo.toNat = 256 * blockOfBit (6 * j) + 2

/-- R148, R149: whatever PHY_DECODE reads once it is ready, it either verifies every block, or reports the
first bad block `b` and leaves behind exactly the blocks before it: `V0` their bytes, `V2` and `INDEX` the
block, the bytes stored those the stream holds with matching CRCs, and no byte at or beyond `dst + V0`
written. Cause 1 means that block `b` holds an invalid code; cause 2 that every code of it is valid, so that they
stand for bytes `r`, and that the CRC of its data bytes differs from its two CRC bytes. -/
def Obligations.PhyDecodeSalvagesVerifiedBlocks : Prop :=
  ∀ (s : State) (n : Nat), Memory.wf s.buf → PhyDecodeReady s n →
    ∃ t, exec .phyDecode s = .next t ∧ KeepsFixed s t ∧ KeepsConfig s t ∧
      ((EndsOk t { r0 := BitVec.ofNat 32 n, r1 := s.a.r2, r2 := BitVec.ofNat 32 (numBlocks n) } ∧
          KeepsBytesOutside s t s.a.r2.toNat n ∧
          (encodedBits s).take (12 * (n + 2 * numBlocks n)) =
            codeStream (withCrc (t.memRead s.a.r2.toNat n))) ∨
        ∃ b c, b < numBlocks n ∧ (c = 1 ∨ c = 2) ∧
          let off := ((blocks n).take b).sum
          let k := (blocks n).getD b 0
          t.status = 2#32 ∧ t.errinfo.toNat = 256 * b + c ∧
          t.v = { r0 := BitVec.ofNat 32 off, r2 := BitVec.ofNat 32 b } ∧
          KeepsBytesOutside s t s.a.r2.toNat off ∧
          (encodedBits s).take (12 * (off + 2 * b)) =
            codeStream (withCrcBlocks ((blocks n).take b) (t.memRead s.a.r2.toNat off)) ∧
          (c = 1 ↔ ∃ j, 2 * (off + 2 * b) ≤ j ∧ j < 2 * (off + 2 * b + k + 2) ∧
            inv3of6 (streamCode (encodedBits s) j) = none) ∧
          (c = 2 ↔ ∃ r : List Byte, r.length = k + 2 ∧
            ((encodedBits s).drop (12 * (off + 2 * b))).take (12 * (k + 2)) = codeStream r ∧
            (crc16 (r.take k)).toNat ≠ (r.getD k 0#8).toNat * 256 + (r.getD (k + 1) 0#8).toNat))

/-! ### Security Layer -/

/-- R161: SET_KEY loads the sixteen bytes at `src` into `KEY` and makes it valid; a failure keeps both. -/
def Obligations.SetKeyLoadsTheKey : Prop :=
  encode .setKey = 0x40#32 ∧ ∀ s : State,
    if s.a.r0 = nullAddr then FailsWith .setKey s 3 1
    else if s.a.r1 = 0#32 then FailsWith .setKey s 3 2
    else if s.a.r1 ≠ 16#32 then FailsWith .setKey s 3 4
    else if s.bufSize < s.a.r0.toNat + 16 then FailsWith .setKey s 5 3
    else
      ∃ t, exec .setKey s = .next t ∧ EndsOk t {} ∧ KeepsFixed s t ∧ t.mode = s.mode ∧
        t.modeValid = s.modeValid ∧ t.keyValid = true ∧
        t.key.toBytes = s.memRead s.a.r0.toNat 16 ∧ ∀ k, t.readByte k = s.readByte k

/-- R162: GET_KEY writes the sixteen key bytes at `dst` and nothing else, in the order of its checks. -/
def Obligations.GetKeyWritesTheKey : Prop :=
  encode .getKey = 0x41#32 ∧ ∀ s : State, Memory.wf s.buf →
    if s.a.r0 = nullAddr then FailsWith .getKey s 3 1
    else if s.a.r1 = 0#32 then FailsWith .getKey s 3 2
    else if s.keyValid = false then FailsWith .getKey s 3 3
    else if s.bufSize < s.a.r0.toNat + s.a.r1.toNat then FailsWith .getKey s 5 3
    else if s.a.r1.toNat < 16 then FailsWith .getKey s 1 1
    else CompletesStoring .getKey s { r0 := 16#32 } s.a.r0.toNat s.key.toBytes

/-- R164, R163: DERIVE_IV writes the address bytes, least significant first, then the access number eight
times; it reads neither the key nor the fixed address. -/
def Obligations.DeriveIvWritesTheIv : Prop :=
  encode .deriveIv = 0x42#32 ∧ ∀ s : State, Memory.wf s.buf →
    if s.a.r0 = nullAddr then FailsWith .deriveIv s 3 1
    else if s.a.r1 = 0#32 then FailsWith .deriveIv s 3 2
    else if s.bufSize < s.a.r0.toNat + s.a.r1.toNat then FailsWith .deriveIv s 5 3
    else if s.a.r1.toNat < 16 then FailsWith .deriveIv s 1 1
    else
      CompletesStoring .deriveIv s { r0 := 16#32 } s.a.r0.toNat
        ([ wordByte s.a.r2 0, wordByte s.a.r2 1, wordByte s.a.r3 0, wordByte s.a.r3 1,
           wordByte s.a.r3 2, wordByte s.a.r3 3, wordByte s.a.r4 0, wordByte s.a.r4 1 ] ++
          List.replicate 8 (wordByte s.a.r5 0))

/-- R166, R167: block 0 of a CBC ciphertext is the cipher of the first plaintext block and the IV, block
`i + 1` that of the next plaintext block and ciphertext block `i`. ENCRYPT pads with 0x2F to the block count and writes the CBC ciphertext at `dst`, in place if
`dst = src`, and nothing else; the checks are in the order of R223. -/
def Obligations.EncryptWritesTheCiphertext : Prop :=
  encode .encrypt = 0x43#32 ∧
  (∀ (key : Block) (iv q : List Byte), q.length % 16 = 0 →
    let c := cbcEncrypt key iv q
    c.length = q.length ∧
      (16 ≤ q.length → Block.ofBytes c = aesEnc key ((Block.ofBytes q).xor (Block.ofBytes iv))) ∧
      ∀ i, 16 * (i + 2) ≤ q.length →
        Block.ofBytes (c.drop (16 * (i + 1))) =
          aesEnc key ((Block.ofBytes (q.drop (16 * (i + 1)))).xor (Block.ofBytes (c.drop (16 * i))))) ∧
  ∀ s : State, Memory.wf s.buf →
    let plen := s.a.r1.toNat
    let bc := if s.a.r6 = 0#32 then (plen + 15) / 16 else s.a.r6.toNat
    if s.a.r0 = nullAddr ∨ s.a.r2 = nullAddr ∨ s.a.r4 = nullAddr then FailsWith .encrypt s 3 1
    else if s.a.r1 = 0#32 ∨ s.a.r3 = 0#32 ∨ s.a.r5 = 0#32 then FailsWith .encrypt s 3 2
    else if s.keyValid = false then FailsWith .encrypt s 3 3
    else if s.a.r5 ≠ 16#32 then FailsWith .encrypt s 3 4
    else if 16 * bc < plen then FailsWith .encrypt s 3 5
    else if s.bufSize < s.a.r0.toNat + plen ∨ s.bufSize < s.a.r2.toNat + s.a.r3.toNat ∨
        s.bufSize < s.a.r4.toNat + 16 then FailsWith .encrypt s 5 3
    else if (s.a.r2 ≠ s.a.r0 ∧ overlap s.a.r0 plen s.a.r2 s.a.r3.toNat = true) ∨
        overlap s.a.r4 16 s.a.r2 s.a.r3.toNat = true then FailsWith .encrypt s 5 4
    else if s.a.r3.toNat < 16 * bc then FailsWith .encrypt s 1 1
    else
      CompletesStoring .encrypt s { r0 := BitVec.ofNat 32 (16 * bc), r1 := BitVec.ofNat 32 bc }
        s.a.r2.toNat
        (cbcEncrypt s.key (s.memRead s.a.r4.toNat 16)
          (s.memRead s.a.r0.toNat plen ++ List.replicate (16 * bc - plen) 0x2F#8))

/-- R168, R169: block 0 of a CBC plaintext is the inverse cipher of the first ciphertext block, exclusive or
the IV, block `i + 1` that of the next ciphertext block, exclusive or ciphertext block `i`. DECRYPT writes the padded plaintext at `dst`, in place if `dst = src`, and nothing else; the
checks are in the order of R223. -/
def Obligations.DecryptWritesThePlaintext : Prop :=
  encode .decrypt = 0x44#32 ∧
  (∀ (key : Block) (iv c : List Byte), c.length % 16 = 0 →
    let q := cbcDecrypt key iv c
    q.length = c.length ∧
      (16 ≤ c.length → Block.ofBytes q = (aesDec key (Block.ofBytes c)).xor (Block.ofBytes iv)) ∧
      ∀ i, 16 * (i + 2) ≤ c.length →
        Block.ofBytes (q.drop (16 * (i + 1))) =
          (aesDec key (Block.ofBytes (c.drop (16 * (i + 1))))).xor (Block.ofBytes (c.drop (16 * i)))) ∧
  ∀ s : State, Memory.wf s.buf →
    let clen := s.a.r1.toNat
    if s.a.r0 = nullAddr ∨ s.a.r2 = nullAddr ∨ s.a.r4 = nullAddr then FailsWith .decrypt s 3 1
    else if s.a.r1 = 0#32 ∨ s.a.r3 = 0#32 ∨ s.a.r5 = 0#32 then FailsWith .decrypt s 3 2
    else if s.keyValid = false then FailsWith .decrypt s 3 3
    else if s.a.r5 ≠ 16#32 ∨ clen % 16 ≠ 0 then FailsWith .decrypt s 3 4
    else if s.bufSize < s.a.r0.toNat + clen ∨ s.bufSize < s.a.r2.toNat + s.a.r3.toNat ∨
        s.bufSize < s.a.r4.toNat + 16 then FailsWith .decrypt s 5 3
    else if (s.a.r2 ≠ s.a.r0 ∧ overlap s.a.r0 clen s.a.r2 s.a.r3.toNat = true) ∨
        overlap s.a.r4 16 s.a.r2 s.a.r3.toNat = true then FailsWith .decrypt s 5 4
    else if s.a.r3.toNat < clen then FailsWith .decrypt s 1 1
    else
      CompletesStoring .decrypt s { r0 := s.a.r1 } s.a.r2.toNat
        (cbcDecrypt s.key (s.memRead s.a.r4.toNat 16) (s.memRead s.a.r0.toNat clen))

/-- R187: decryption undoes encryption on every block, for every key. -/
def Obligations.AesDecInvertsAesEnc : Prop := ∀ k b : Block, aesDec k (aesEnc k b) = b

/-- R170: DECRYPT of what a successful ENCRYPT without an explicit block count wrote, under the same key and
IV bytes, writes the plaintext padded with 0x2F. -/
def Obligations.Mode5RoundTrip : Prop :=
  ∀ (s t : State) (b : Bank), Memory.wf s.buf → exec .encrypt s = .next t → t.status = 0#32 →
    s.a.r6 = 0#32 → b.r0 = s.a.r2 → b.r1 = t.v.r0 → b.r2 ≠ nullAddr → b.r4 ≠ nullAddr →
    b.r5 = 16#32 → t.memRead b.r4.toNat 16 = s.memRead s.a.r4.toNat 16 →
    t.inBuf b.r2 b.r3.toNat = true → t.inBuf b.r4 16 = true →
    (b.r2 = b.r0 ∨ overlap b.r0 b.r1.toNat b.r2 b.r3.toNat = false) →
    overlap b.r4 16 b.r2 b.r3.toNat = false → b.r1.toNat ≤ b.r3.toNat →
      CompletesStoring .decrypt { t with a := b } { r0 := t.v.r0 } b.r2.toNat
        (s.memRead s.a.r0.toNat s.a.r1.toNat ++
          List.replicate (16 * ((s.a.r1.toNat + 15) / 16) - s.a.r1.toNat) 0x2F#8)

/-! ### Frame Assembler -/

/-- R201 with R200: PUT_RECORD writes DIF, VIF and the low `k` value bytes, least significant first, for a
length code of 1, 2 or 4, and nothing else. -/
def Obligations.PutRecordWritesTheRecord : Prop :=
  encode .putRecord = 0x50#32 ∧ ∀ s : State, Memory.wf s.buf →
    let k := s.a.r2.toNat % 16
    if k ≠ 1 ∧ k ≠ 2 ∧ k ≠ 4 then FailsWith .putRecord s 5 6
    else if s.inBuf s.a.r0 s.a.r1.toNat = false then FailsWith .putRecord s 5 3
    else if s.a.r1.toNat < 2 + k then FailsWith .putRecord s 1 1
    else
      CompletesStoring .putRecord s { r0 := BitVec.ofNat 32 (2 + k) } s.a.r0.toNat
        ([BitVec.ofNat 8 (s.a.r2.toNat % 64), wordByte s.a.r2 1] ++
          ([wordByte s.a.r3 0, wordByte s.a.r3 1, wordByte s.a.r3 2, wordByte s.a.r3 3].take k))

/-- R202: GET_RECORD skips the leading 0x2F fillers and returns the record that follows, its value
sign-extended, or reports that there is none. -/
def Obligations.GetRecordReturnsTheRecord : Prop :=
  encode .getRecord = 0x51#32 ∧ ∀ s : State,
    let avail := s.a.r1.toNat
    let b := fun k => (s.readByte (s.a.r0.toNat + k)).toNat
    if avail = 0 then FailsWith .getRecord s 5 8
    else if s.inBuf s.a.r0 avail = false then FailsWith .getRecord s 5 3
    else
      ((∀ j, j < avail → b j = 0x2F) → CompletesSilently .getRecord s { r0 := s.a.r1, r5 := s.a.r1 }) ∧
      ∀ i, i < avail → (∀ j, j < i → b j = 0x2F) → b i ≠ 0x2F →
        let k := b i % 16
        let u := if k = 1 then b (i + 2) else if k = 2 then b (i + 2) + 256 * b (i + 3)
          else b (i + 2) + 256 * b (i + 3) + 65536 * b (i + 4) + 16777216 * b (i + 5)
        if 64 ≤ b i ∨ (k ≠ 1 ∧ k ≠ 2 ∧ k ≠ 4) then FailsWith .getRecord s 5 6
        else if avail - i < 2 + k then FailsWith .getRecord s 5 8
        else
          CompletesSilently .getRecord s
            { r0 := BitVec.ofNat 32 (i + 2 + k), r1 := 1#32, r2 := BitVec.ofNat 32 (b i),
              r3 := BitVec.ofNat 32 (b (i + 1)),
              r4 := BitVec.ofNat 32 (if u < 2 ^ (8 * k - 1) then u else u + 2 ^ 32 - 2 ^ (8 * k)),
              r5 := BitVec.ofNat 32 i, r6 := BitVec.ofNat 32 (b i / 16), r7 := BitVec.ofNat 32 k }

/-- R204 with R203: BUILD_METER_FRAME writes the 25 or 31 bytes of the frame at `dst` and nothing else: DLL
header with C-field 0x44 and the fixed address, STL header, and the two records, in Mode 5 encrypted with
the leading 0x2F2F and the padding. -/
def Obligations.BuildMeterFrameWritesTheFrame : Prop :=
  encode .buildMeterFrame = 0x52#32 ∧ ∀ s : State, Memory.wf s.buf →
    let enc := s.a.r2.toNat / 2 ^ 17 % 2 = 1
    let cw := (if enc then 0x510 else 0) + 8192 * (s.a.r2.toNat / 2 ^ 16 % 2) +
      16384 * (s.a.r2.toNat / 256 % 4)
    let addr := [ wordByte (s.dev.mfr.setWidth 32) 0, wordByte (s.dev.mfr.setWidth 32) 1,
      wordByte s.dev.id 0, wordByte s.dev.id 1, wordByte s.dev.id 2, wordByte s.dev.id 3, s.dev.ver,
      s.dev.type ]
    let records := [ 0x04#8, 0x13#8, wordByte s.a.r3 0, wordByte s.a.r3 1, wordByte s.a.r3 2,
      wordByte s.a.r3 3, 0x02#8, 0x3B#8, wordByte s.a.r4 0, wordByte s.a.r4 1 ]
    let t := if enc then 31 else 25
    let body := if enc then
        cbcEncrypt s.key (addr ++ List.replicate 8 (wordByte s.a.r2 0))
          ([0x2F#8, 0x2F#8] ++ records ++ [0x2F#8, 0x2F#8, 0x2F#8, 0x2F#8])
      else records
    if enc ∧ s.keyValid = false then FailsWith .buildMeterFrame s 3 3
    else if s.inBuf s.a.r0 s.a.r1.toNat = false then FailsWith .buildMeterFrame s 5 3
    else if s.a.r1.toNat < t then FailsWith .buildMeterFrame s 1 1
    else
      CompletesStoring .buildMeterFrame s
        { r0 := BitVec.ofNat 32 t, r1 := BitVec.ofNat 32 (t - 1), r2 := BitVec.ofNat 32 cw,
          r3 := if enc then 1#32 else 0#32, r4 := if enc then 12#32 else 10#32,
          r5 := if enc then 16#32 else 10#32 }
        s.a.r0.toNat
        ([BitVec.ofNat 8 (t - 1), 0x44#8] ++ addr ++
          [0x7A#8, wordByte s.a.r2 0, 0x00#8, BitVec.ofNat 8 cw, BitVec.ofNat 8 (cw / 256)] ++ body)

/-- R204, Equivalence: BUILD_METER_FRAME leaves in `BUF` what this sequence leaves: with `encrypt` the two
fillers, PUT_RECORD twice, STL_BUILD in place around them, then DLL_BUILD at `dst`. -/
def Obligations.MeterFrameEqualsCommandSequence : Prop :=
  ∀ s f : State, s.Inv → exec .buildMeterFrame s = .next f → f.status = 0#32 →
    let enc := s.a.r2.toNat / 2 ^ 17 % 2 = 1
    let dst := s.a.r0.toNat
    let off := if enc then 2 else 0
    let s0 := if enc then s.memWrite (dst + 15) [0x2F#8, 0x2F#8] else s
    ∃ t1 t2 t3 t4,
      RunsOk .putRecord
        { r0 := BitVec.ofNat 32 (dst + 15 + off), r1 := 6#32, r2 := 0x1304#32, r3 := s.a.r3 } s0 t1 ∧
      RunsOk .putRecord
        { r0 := BitVec.ofNat 32 (dst + 21 + off), r1 := 4#32, r2 := 0x3B02#32, r3 := s.a.r4 } t1 t2 ∧
      RunsOk .stlBuild
        { r0 := BitVec.ofNat 32 (dst + 10), r1 := 5#32,
          r2 := BitVec.ofNat 32 ((if enc then 5 else 0) + 256 * (s.a.r2.toNat % 256) +
            2 ^ 16 * (s.a.r2.toNat / 256 % 4) + 2 ^ 24 * (s.a.r2.toNat / 2 ^ 16 % 2)),
          r3 := BitVec.ofNat 32 (dst + 15), r4 := BitVec.ofNat 32 (10 + off), r5 := 16#32 } t2 t3 ∧
      RunsOk .dllBuild
        { r0 := BitVec.ofNat 32 dst, r1 := 10#32, r2 := s.dev.mfr.setWidth 32, r3 := s.dev.id,
          r4 := BitVec.ofNat 32 (s.dev.ver.toNat + 256 * s.dev.type.toNat), r5 := 0x44#32,
          r6 := BitVec.ofNat 32 (15 + t3.v.r1.toNat) } t3 t4 ∧
      (∀ k, t4.readByte k = f.readByte k) ∧ t3.v.r2 = f.v.r2 ∧ t4.v.r1 = f.v.r1

/-! ### Timing model -/

/-- R206 with R205: ACCESS_WINDOW returns the row of the table for the FrameMode and `slow`; the rows the
source does not give are the parameters of R7; a code above 8 is refused. -/
def Obligations.AccessWindowLooksUpTheTable : Prop :=
  encode .accessWindow = 0x53#32 ∧ ∀ s : State,
    let m := s.a.r0.toNat % 16
    let slow := s.a.r2.toNat % 2 = 1
    if 8 < m then FailsWith .accessWindow s 5 2
    else if m = 1 ∨ m = 2 then CompletesSilently .accessWindow s { r0 := 2000#32, r1 := 3000#32 }
    else if m = 3 ∨ m = 4 then
      CompletesSilently .accessWindow s
        (if slow then { r0 := 999500#32, r1 := 1000500#32 } else { r0 := 99500#32, r1 := 100500#32 })
    else
      CompletesSilently .accessWindow s
        { r0 := Config.awStart (BitVec.ofNat 4 m) (decide slow),
          r1 := Config.awStop (BitVec.ofNat 4 m) (decide slow) }

/-- R208: ACCESS_DELAY returns the 33-bit jittered period in `V1`:`V0`; it never fails. -/
def Obligations.AccessDelayReturnsThePeriod : Prop :=
  encode .accessDelay = 0x54#32 ∧ ∀ s : State,
    let acc := s.a.r0.toNat % 256
    let d := if acc < 128 then 128 - acc else acc - 128
    let r := (1984 + d) * s.a.r1.toNat / 2048
    CompletesSilently .accessDelay s
        { r0 := BitVec.ofNat 32 (r % 2 ^ 32), r1 := if r < 2 ^ 32 then 0#32 else 1#32 } ∧
      r < 2 ^ 33

/-- R207: the access delay is the truncated quotient of the exact product, the zero-offset case is
`1984·t div 2048`, the formula is symmetric about 128, and access number 0 has no mirror: it differs from
255 for some period. -/
def Obligations.AccessDelayFormula : Prop :=
  (∀ (acc : Byte) (t : Nat),
    let d := (if acc.toNat < 128 then 128 - acc.toNat else acc.toNat - 128)
    accessDelay acc t * 2048 ≤ (2048 + d - 64) * t ∧ (2048 + d - 64) * t < accessDelay acc t * 2048 + 2048) ∧
  (∀ t : Nat, accessDelay 128#8 t = 1984 * t / 2048) ∧
  (∀ x t : Nat, x ≤ 127 →
    accessDelay (BitVec.ofNat 8 (128 - x)) t = accessDelay (BitVec.ofNat 8 (128 + x)) t) ∧
  accessDelay 0#8 10000000 = 10312500 ∧ accessDelay 255#8 10000000 = 10307617
end

