-- ==== Sys2Proof/Laws/Bytes.lean ====
section
/-! SUPPORT. Lengths and inverses of the byte-sequence functions. -/

namespace Sys2Proof

@[simp] theorem Block.length_toBytes (b : Block) : b.toBytes.length = 16 := rfl

/-- A block is read back from its sixteen bytes. -/
@[simp] theorem Block.ofBytes_toBytes (b : Block) : Block.ofBytes b.toBytes = b := rfl

/-- Reading a block looks at the first sixteen bytes only. -/
theorem Block.ofBytes_append (b : Block) (x : List Byte) : Block.ofBytes (b.toBytes ++ x) = b := rfl

/-- Sixteen bytes are read back from their block. -/
theorem Block.toBytes_ofBytes (x : List Byte) (h : x.length = 16) : (Block.ofBytes x).toBytes = x := by
  match x, h with
  | [_, _, _, _, _, _, _, _, _, _, _, _, _, _, _, _], _ => rfl

/-- The bytes of a block are the first sixteen bytes it was read from. -/
theorem Block.toBytes_ofBytes_take (x : List Byte) (h : 16 ≤ x.length) :
    (Block.ofBytes x).toBytes = x.take 16 := by
  have e : Block.ofBytes x = Block.ofBytes (x.take 16) := by
    simp [Block.ofBytes, Quad.ofBytes, Machine.byteAt, List.getD_eq_getElem?_getD]
  rw [e, Block.toBytes_ofBytes _ (by simp; omega)]

theorem Quad.xor_xor_self (p q : Quad) : (p.xor q).xor q = p := by
  simp [Quad.xor]

theorem Block.xor_xor_self (p q : Block) : (p.xor q).xor q = p := by
  simp [Block.xor, Quad.xor_xor_self]

namespace Machine

@[simp] theorem length_leBytes (n v : Nat) : (leBytes n v).length = n := by
  induction n generalizing v with
  | zero => rfl
  | succ n ih => simp [leBytes, ih]

/-- `FromLE` is the inverse of `LE_n` (R10). -/
theorem fromLE_leBytes (n v : Nat) : fromLE (leBytes n v) = v % 256 ^ n := by
  induction n generalizing v with
  | zero => simp [leBytes, fromLE, Nat.mod_one]
  | succ n ih =>
    simp only [leBytes, fromLE, ih, BitVec.toNat_ofNat]
    rw [show (2 : Nat) ^ 8 = 256 by norm_num, Nat.pow_succ, Nat.mul_comm (256 ^ n) 256, Nat.mod_mul]

@[simp] theorem length_rep (b : Byte) (k : Nat) : (rep b k).length = k := by simp [rep]

@[simp] theorem length_addressBytes (d : DeviceAddress) : (addressBytes d).length = 8 := rfl
@[simp] theorem length_deriveIv (d : DeviceAddress) (acc : Byte) : (deriveIv d acc).length = 16 := rfl
@[simp] theorem length_dllHeader (lf cf : Byte) (d : DeviceAddress) :
    (dllHeader lf cf d).length = 10 := rfl
@[simp] theorem length_stlHeader (acc : Byte) (cw : BitVec 16) : (stlHeader acc cw).length = 5 := rfl
@[simp] theorem length_ltlHeader (d : DeviceAddress) (acc : Byte) (cw : BitVec 16) :
    (ltlHeader d acc cw).length = 13 := rfl

/-- A padded sequence fills its blocks exactly (R165). -/
theorem length_pad (p : List Byte) (bc : Nat) (h : p.length ≤ 16 * bc) :
    (pad p bc).length = 16 * bc := by
  simp [pad]; omega

@[simp] theorem length_cbcEncryptBlocks (k : Block) (bc : Nat) (prev : Block) (q : List Byte) :
    (cbcEncryptBlocks k bc prev q).length = 16 * bc := by
  induction bc generalizing prev q with
  | zero => rfl
  | succ n ih => simp [cbcEncryptBlocks, ih]; omega

@[simp] theorem length_cbcDecryptBlocks (k : Block) (bc : Nat) (prev : Block) (c : List Byte) :
    (cbcDecryptBlocks k bc prev c).length = 16 * bc := by
  induction bc generalizing prev c with
  | zero => rfl
  | succ n ih => simp [cbcDecryptBlocks, ih]; omega

/-- A ciphertext is as long as its blocks (R166). -/
theorem length_cbcEncrypt (k : Block) (iv q : List Byte) :
    (cbcEncrypt k iv q).length = 16 * (q.length / 16) := by simp [cbcEncrypt]

/-- A plaintext is as long as its blocks (R168). -/
theorem length_cbcDecrypt (k : Block) (iv c : List Byte) :
    (cbcDecrypt k iv c).length = 16 * (c.length / 16) := by simp [cbcDecrypt]

@[simp] theorem length_record (fn : BitVec 2) (lc : BitVec 4) (vif : Byte) (v : Nat) :
    (record fn lc vif v).length = 2 + recordSize lc := by
  simp [record]; omega

theorem length_meterPayload (vol : BitVec 32) (flow : BitVec 16) (e : Bool) :
    (meterPayload vol flow e).length = if e then 12 else 10 := by
  cases e <;> rfl

@[simp] theorem length_crcBytes (b : List Byte) : (crcBytes b).length = 2 := rfl

/-- The block lengths of a frame add up to its length (R134). -/
theorem sum_blocks (n : Nat) : (blocks n).sum = n := by
  unfold blocks
  split
  · simp
  · dsimp only
    split <;> simp <;> omega

/-- The length of a sequence with its block CRCs, when the blocks cover it (R135). -/
theorem length_withCrcBlocks (ks : List Nat) (x : List Byte) (h : ks.sum = x.length) :
    (withCrcBlocks ks x).length = x.length + 2 * ks.length := by
  induction ks generalizing x with
  | nil => simp at h; simp [withCrcBlocks, ← h]
  | cons k ks ih =>
    simp only [List.sum_cons] at h
    simp only [withCrcBlocks, List.length_append, List.length_take, length_crcBytes, List.length_cons]
    rw [ih _ (by simp; omega)]
    simp
    omega

end Machine

end Sys2Proof
end

