-- ==== Sys2Proof/Laws/State.lean ====
section
/-! SUPPORT. The fields of a state after each named update, one lemma per field and update, so that no proof
unfolds a record update. -/

namespace Sys2Proof.Machine

variable (s : State)

/-! ### raise -/

@[simp] theorem State.raise_a (f : Failure) (v : Bank) : (s.raise f v).a = s.a := rfl
@[simp] theorem State.raise_v (f : Failure) (v : Bank) : (s.raise f v).v = v := rfl
@[simp] theorem State.raise_cmd (f : Failure) (v : Bank) : (s.raise f v).cmd = s.cmd := rfl
@[simp] theorem State.raise_status (f : Failure) (v : Bank) :
    (s.raise f v).status = statusWord f.status := rfl
@[simp] theorem State.raise_errinfo (f : Failure) (v : Bank) :
    (s.raise f v).errinfo = f.errinfo := rfl
@[simp] theorem State.raise_mode (f : Failure) (v : Bank) : (s.raise f v).mode = s.mode := rfl
@[simp] theorem State.raise_modeValid (f : Failure) (v : Bank) :
    (s.raise f v).modeValid = s.modeValid := rfl
@[simp] theorem State.raise_key (f : Failure) (v : Bank) : (s.raise f v).key = s.key := rfl
@[simp] theorem State.raise_keyValid (f : Failure) (v : Bank) :
    (s.raise f v).keyValid = s.keyValid := rfl
@[simp] theorem State.raise_dev (f : Failure) (v : Bank) : (s.raise f v).dev = s.dev := rfl
@[simp] theorem State.raise_buf (f : Failure) (v : Bank) : (s.raise f v).buf = s.buf := rfl
@[simp] theorem State.raise_bufSize (f : Failure) (v : Bank) :
    (s.raise f v).bufSize = s.bufSize := rfl
@[simp] theorem State.raise_epoch (f : Failure) (v : Bank) : (s.raise f v).epoch = s.epoch := rfl
@[simp] theorem State.raise_readData (f : Failure) (v : Bank) :
    (s.raise f v).readData = s.readData := rfl
@[simp] theorem State.raise_inputs (f : Failure) (v : Bank) : (s.raise f v).inputs = s.inputs := rfl

/-! ### done -/

@[simp] theorem State.done_a (v : Bank) : (s.done v).a = s.a := rfl
@[simp] theorem State.done_v (v : Bank) : (s.done v).v = v := rfl
@[simp] theorem State.done_cmd (v : Bank) : (s.done v).cmd = s.cmd := rfl
@[simp] theorem State.done_status (v : Bank) : (s.done v).status = statusWord .ok := rfl
@[simp] theorem State.done_errinfo (v : Bank) : (s.done v).errinfo = 0#32 := rfl
@[simp] theorem State.done_mode (v : Bank) : (s.done v).mode = s.mode := rfl
@[simp] theorem State.done_modeValid (v : Bank) : (s.done v).modeValid = s.modeValid := rfl
@[simp] theorem State.done_key (v : Bank) : (s.done v).key = s.key := rfl
@[simp] theorem State.done_keyValid (v : Bank) : (s.done v).keyValid = s.keyValid := rfl
@[simp] theorem State.done_dev (v : Bank) : (s.done v).dev = s.dev := rfl
@[simp] theorem State.done_buf (v : Bank) : (s.done v).buf = s.buf := rfl
@[simp] theorem State.done_bufSize (v : Bank) : (s.done v).bufSize = s.bufSize := rfl
@[simp] theorem State.done_epoch (v : Bank) : (s.done v).epoch = s.epoch := rfl
@[simp] theorem State.done_readData (v : Bank) : (s.done v).readData = s.readData := rfl
@[simp] theorem State.done_inputs (v : Bank) : (s.done v).inputs = s.inputs := rfl

/-! ### memWrite -/

@[simp] theorem State.memWrite_a (p : Nat) (x : List Byte) : (s.memWrite p x).a = s.a := rfl
@[simp] theorem State.memWrite_v (p : Nat) (x : List Byte) : (s.memWrite p x).v = s.v := rfl
@[simp] theorem State.memWrite_cmd (p : Nat) (x : List Byte) : (s.memWrite p x).cmd = s.cmd := rfl
@[simp] theorem State.memWrite_status (p : Nat) (x : List Byte) :
    (s.memWrite p x).status = s.status := rfl
@[simp] theorem State.memWrite_errinfo (p : Nat) (x : List Byte) :
    (s.memWrite p x).errinfo = s.errinfo := rfl
@[simp] theorem State.memWrite_mode (p : Nat) (x : List Byte) :
    (s.memWrite p x).mode = s.mode := rfl
@[simp] theorem State.memWrite_modeValid (p : Nat) (x : List Byte) :
    (s.memWrite p x).modeValid = s.modeValid := rfl
@[simp] theorem State.memWrite_key (p : Nat) (x : List Byte) : (s.memWrite p x).key = s.key := rfl
@[simp] theorem State.memWrite_keyValid (p : Nat) (x : List Byte) :
    (s.memWrite p x).keyValid = s.keyValid := rfl
@[simp] theorem State.memWrite_dev (p : Nat) (x : List Byte) : (s.memWrite p x).dev = s.dev := rfl
@[simp] theorem State.memWrite_buf (p : Nat) (x : List Byte) :
    (s.memWrite p x).buf = memWriteBytes s.buf p x := rfl
@[simp] theorem State.memWrite_bufSize (p : Nat) (x : List Byte) :
    (s.memWrite p x).bufSize = s.bufSize := rfl
@[simp] theorem State.memWrite_epoch (p : Nat) (x : List Byte) :
    (s.memWrite p x).epoch = s.epoch := rfl
@[simp] theorem State.memWrite_readData (p : Nat) (x : List Byte) :
    (s.memWrite p x).readData = s.readData := rfl
@[simp] theorem State.memWrite_inputs (p : Nat) (x : List Byte) :
    (s.memWrite p x).inputs = s.inputs := rfl

/-! ### setMode -/

@[simp] theorem State.setMode_a (m : BitVec 4) : (s.setMode m).a = s.a := rfl
@[simp] theorem State.setMode_v (m : BitVec 4) : (s.setMode m).v = s.v := rfl
@[simp] theorem State.setMode_cmd (m : BitVec 4) : (s.setMode m).cmd = s.cmd := rfl
@[simp] theorem State.setMode_status (m : BitVec 4) : (s.setMode m).status = s.status := rfl
@[simp] theorem State.setMode_errinfo (m : BitVec 4) : (s.setMode m).errinfo = s.errinfo := rfl
@[simp] theorem State.setMode_mode (m : BitVec 4) : (s.setMode m).mode = m := rfl
@[simp] theorem State.setMode_modeValid (m : BitVec 4) : (s.setMode m).modeValid = true := rfl
@[simp] theorem State.setMode_key (m : BitVec 4) : (s.setMode m).key = s.key := rfl
@[simp] theorem State.setMode_keyValid (m : BitVec 4) : (s.setMode m).keyValid = s.keyValid := rfl
@[simp] theorem State.setMode_dev (m : BitVec 4) : (s.setMode m).dev = s.dev := rfl
@[simp] theorem State.setMode_buf (m : BitVec 4) : (s.setMode m).buf = s.buf := rfl
@[simp] theorem State.setMode_bufSize (m : BitVec 4) : (s.setMode m).bufSize = s.bufSize := rfl
@[simp] theorem State.setMode_epoch (m : BitVec 4) : (s.setMode m).epoch = s.epoch := rfl
@[simp] theorem State.setMode_readData (m : BitVec 4) : (s.setMode m).readData = s.readData := rfl
@[simp] theorem State.setMode_inputs (m : BitVec 4) : (s.setMode m).inputs = s.inputs := rfl

/-! ### setKey -/

@[simp] theorem State.setKey_a (k : Block) : (s.setKey k).a = s.a := rfl
@[simp] theorem State.setKey_v (k : Block) : (s.setKey k).v = s.v := rfl
@[simp] theorem State.setKey_cmd (k : Block) : (s.setKey k).cmd = s.cmd := rfl
@[simp] theorem State.setKey_status (k : Block) : (s.setKey k).status = s.status := rfl
@[simp] theorem State.setKey_errinfo (k : Block) : (s.setKey k).errinfo = s.errinfo := rfl
@[simp] theorem State.setKey_mode (k : Block) : (s.setKey k).mode = s.mode := rfl
@[simp] theorem State.setKey_modeValid (k : Block) : (s.setKey k).modeValid = s.modeValid := rfl
@[simp] theorem State.setKey_key (k : Block) : (s.setKey k).key = k := rfl
@[simp] theorem State.setKey_keyValid (k : Block) : (s.setKey k).keyValid = true := rfl
@[simp] theorem State.setKey_dev (k : Block) : (s.setKey k).dev = s.dev := rfl
@[simp] theorem State.setKey_buf (k : Block) : (s.setKey k).buf = s.buf := rfl
@[simp] theorem State.setKey_bufSize (k : Block) : (s.setKey k).bufSize = s.bufSize := rfl
@[simp] theorem State.setKey_epoch (k : Block) : (s.setKey k).epoch = s.epoch := rfl
@[simp] theorem State.setKey_readData (k : Block) : (s.setKey k).readData = s.readData := rfl
@[simp] theorem State.setKey_inputs (k : Block) : (s.setKey k).inputs = s.inputs := rfl

/-! ### resetEvent -/

@[simp] theorem State.resetEvent_a : s.resetEvent.a = {} := rfl
@[simp] theorem State.resetEvent_v : s.resetEvent.v = {} := rfl
@[simp] theorem State.resetEvent_cmd : s.resetEvent.cmd = 0#32 := rfl
@[simp] theorem State.resetEvent_status : s.resetEvent.status = 0#32 := rfl
@[simp] theorem State.resetEvent_errinfo : s.resetEvent.errinfo = 0#32 := rfl
@[simp] theorem State.resetEvent_mode : s.resetEvent.mode = State.reset.mode := rfl
@[simp] theorem State.resetEvent_modeValid : s.resetEvent.modeValid = false := rfl
@[simp] theorem State.resetEvent_key : s.resetEvent.key = State.reset.key := rfl
@[simp] theorem State.resetEvent_keyValid : s.resetEvent.keyValid = false := rfl
@[simp] theorem State.resetEvent_dev : s.resetEvent.dev = s.dev := rfl
@[simp] theorem State.resetEvent_buf : s.resetEvent.buf = [] := rfl
@[simp] theorem State.resetEvent_bufSize : s.resetEvent.bufSize = s.bufSize := rfl
@[simp] theorem State.resetEvent_epoch : s.resetEvent.epoch = s.epoch + 1 := rfl
@[simp] theorem State.resetEvent_readData : s.resetEvent.readData = s.readData := rfl
@[simp] theorem State.resetEvent_inputs : s.resetEvent.inputs = s.inputs := rfl

/-! ### Register banks -/

@[simp] theorem Bank.get_set_same (b : Bank) (i : Fin 8) (w : Word) : (b.set i w).get i = w := by
  fin_cases i <;> rfl

theorem Bank.get_set_other (b : Bank) (i j : Fin 8) (w : Word) (h : j ≠ i) :
    (b.set i w).get j = b.get j := by
  fin_cases i <;> fin_cases j <;> first | rfl | exact absurd rfl h

end Sys2Proof.Machine
end

