-- ==== Sys2Proof/Laws/Memory.lean ====
section
/-! SUPPORT. What the operations on the buffer memory can do: reading after writing, the canonical form, and
which addresses a memory lists. -/

namespace Sys2Proof.Machine

/-! ### One byte -/

/-- A write of one byte is seen at its address and nowhere else. -/
theorem memLookup_insert (m : Memory) (a : Nat) (b : Byte) (k : Nat) (hm : Memory.wf m) :
    memLookup (memInsert m a b) k = if a = k then some b else memLookup m k := by
  induction m with
  | nil => simp [memInsert, memLookup]
  | cons c m ih =>
    obtain ⟨k₀, c₀⟩ := c
    have hm' : Memory.wf m := (List.pairwise_cons.mp hm).2
    unfold memInsert
    split
    · simp [memLookup]
    · split
      · rename_i h1 h2
        subst h2
        by_cases hk : a = k <;> simp [memLookup, hk]
      · rename_i h1 h2
        simp only [memLookup, ih hm']
        by_cases hk : k₀ = k
        · subst hk
          simp [h2]
        · simp [hk]

/-- The addresses a memory lists after a write of one byte. -/
theorem mem_memInsert (m : Memory) (a : Nat) (b : Byte) (c : Host.Cell)
    (h : c ∈ memInsert m a b) : c = (a, b) ∨ c ∈ m := by
  induction m with
  | nil => simpa [memInsert] using h
  | cons d m ih =>
    obtain ⟨k₀, c₀⟩ := d
    unfold memInsert at h
    split at h
    · simpa using h
    · split at h
      · rcases List.mem_cons.mp h with h | h
        · exact .inl h
        · exact .inr (List.mem_cons_of_mem _ h)
      · rcases List.mem_cons.mp h with h | h
        · exact .inr (h ▸ List.mem_cons_self)
        · rcases ih h with h | h
          · exact .inl h
          · exact .inr (List.mem_cons_of_mem _ h)

/-- A write of one byte keeps the canonical form. -/
theorem memInsert_wf (m : Memory) (a : Nat) (b : Byte) (hm : Memory.wf m) :
    Memory.wf (memInsert m a b) := by
  induction m with
  | nil => simp [memInsert, Memory.wf]
  | cons d m ih =>
    obtain ⟨k₀, c₀⟩ := d
    have ⟨h₀, hm'⟩ := List.pairwise_cons.mp hm
    unfold memInsert
    split
    · rename_i hlt
      refine List.pairwise_cons.mpr ⟨fun x hx => ?_, hm⟩
      rcases List.mem_cons.mp hx with rfl | hx
      · exact hlt
      · exact lt_trans hlt (h₀ x hx)
    · split
      · rename_i h1 h2
        subst h2
        exact List.pairwise_cons.mpr ⟨h₀, hm'⟩
      · rename_i h1 h2
        refine List.pairwise_cons.mpr ⟨fun x hx => ?_, ih hm'⟩
        rcases mem_memInsert _ _ _ _ hx with rfl | hx
        · simp only; omega
        · exact h₀ x hx

/-! ### A sequence of bytes -/

/-- A write of a byte sequence keeps the canonical form. -/
theorem memWriteBytes_wf (m : Memory) (a : Nat) (x : List Byte) (hm : Memory.wf m) :
    Memory.wf (memWriteBytes m a x) := by
  induction x generalizing m a with
  | nil => exact hm
  | cons b x ih => exact ih _ _ (memInsert_wf m a b hm)

/-- Every entry after a write of a byte sequence is an old one or lies in the range written. -/
theorem mem_memWriteBytes (m : Memory) (a : Nat) (x : List Byte) (c : Host.Cell)
    (h : c ∈ memWriteBytes m a x) : c ∈ m ∨ (a ≤ c.1 ∧ c.1 < a + x.length) := by
  induction x generalizing m a with
  | nil => exact .inl h
  | cons b x ih =>
    rcases ih _ _ h with h | ⟨h1, h2⟩
    · rcases mem_memInsert _ _ _ _ h with rfl | h
      · right; simp
      · exact .inl h
    · right; simp only [List.length_cons]; omega

/-- A write of a byte sequence is seen in its range and nowhere else. -/
theorem memLookup_writeBytes (m : Memory) (a : Nat) (x : List Byte) (k : Nat) (hm : Memory.wf m) :
    memLookup (memWriteBytes m a x) k =
      if a ≤ k ∧ k < a + x.length then some (x.getD (k - a) 0#8) else memLookup m k := by
  induction x generalizing m a with
  | nil => simp [memWriteBytes]
  | cons b x ih =>
    simp only [memWriteBytes, ih _ _ (memInsert_wf m a b hm), memLookup_insert m a b k hm,
      List.length_cons]
    rcases Nat.lt_trichotomy k a with h | h | h
    · rw [if_neg (by omega), if_neg (by omega), if_neg (by omega)]
    · subst h
      rw [if_neg (by omega), if_pos rfl, if_pos (by omega)]
      simp
    · by_cases h2 : k < a + (x.length + 1)
      · rw [if_pos (by omega), if_pos (by omega)]
        obtain ⟨d, rfl⟩ : ∃ d, k = a + 1 + d := ⟨k - (a + 1), by omega⟩
        have e1 : a + 1 + d - (a + 1) = d := by omega
        have e2 : a + 1 + d - a = d + 1 := by omega
        simp [e1, e2]
      · rw [if_neg (by omega), if_neg (by omega), if_neg (by omega)]

/-! ### The machine's reads and writes -/

@[simp] theorem State.readByte_raise (s : State) (f : Failure) (v : Bank) (k : Nat) :
    (s.raise f v).readByte k = s.readByte k := rfl
@[simp] theorem State.readByte_done (s : State) (v : Bank) (k : Nat) :
    (s.done v).readByte k = s.readByte k := rfl
@[simp] theorem State.readByte_setMode (s : State) (m : BitVec 4) (k : Nat) :
    (s.setMode m).readByte k = s.readByte k := rfl
@[simp] theorem State.readByte_setKey (s : State) (b : Block) (k : Nat) :
    (s.setKey b).readByte k = s.readByte k := rfl

/-- What a byte reads as after a write: the byte written, inside the range written; else as before. -/
theorem State.readByte_memWrite (s : State) (p : Nat) (x : List Byte) (k : Nat)
    (hm : Memory.wf s.buf) :
    (s.memWrite p x).readByte k =
      if p ≤ k ∧ k < p + x.length then x.getD (k - p) 0#8 else s.readByte k := by
  simp only [State.readByte, State.memWrite_buf, State.memWrite_epoch,
    memLookup_writeBytes s.buf p x k hm]
  by_cases h : p ≤ k ∧ k < p + x.length <;> simp [h]

/-- A write leaves every byte outside its range alone. -/
theorem State.readByte_memWrite_outside (s : State) (p : Nat) (x : List Byte) (k : Nat)
    (hm : Memory.wf s.buf) (h : k < p ∨ p + x.length ≤ k) :
    (s.memWrite p x).readByte k = s.readByte k := by
  rw [s.readByte_memWrite p x k hm, if_neg (by omega)]

@[simp] theorem State.length_memRead (s : State) (p n : Nat) : (s.memRead p n).length = n := by
  induction n generalizing p with
  | zero => rfl
  | succ n ih => simp [State.memRead, ih]

/-- Byte `i` of a range read is the byte at its address. -/
theorem State.getD_memRead (s : State) (p n i : Nat) (h : i < n) :
    (s.memRead p n).getD i 0#8 = s.readByte (p + i) := by
  induction n generalizing p i with
  | zero => omega
  | succ n ih =>
    cases i with
    | zero => simp [State.memRead]
    | succ i =>
      simp only [State.memRead, List.getD_cons_succ]
      rw [ih _ _ (by omega)]
      congr 1
      omega

/-- Two ranges read are equal when their bytes are. -/
theorem State.memRead_congr (s t : State) (p q n : Nat)
    (h : ∀ i, i < n → s.readByte (p + i) = t.readByte (q + i)) : s.memRead p n = t.memRead q n := by
  induction n generalizing p q with
  | zero => rfl
  | succ n ih =>
    simp only [State.memRead]
    rw [show s.readByte p = t.readByte q from by simpa using h 0 (by omega)]
    rw [ih (p + 1) (q + 1) fun i hi => by
      have := h (i + 1) (by omega)
      rwa [show p + (i + 1) = p + 1 + i by omega, show q + (i + 1) = q + 1 + i by omega] at this]

/-- A range reads as what was written to it. -/
theorem State.memRead_memWrite (s : State) (p : Nat) (x : List Byte) (hm : Memory.wf s.buf) :
    (s.memWrite p x).memRead p x.length = x := by
  apply List.ext_getElem (by simp)
  intro i h1 h2
  have := State.getD_memRead (s.memWrite p x) p x.length i h2
  rw [s.readByte_memWrite p x _ hm, if_pos (by omega)] at this
  rw [List.getD_eq_getElem _ _ h1, show p + i - p = i by omega, List.getD_eq_getElem _ _ h2] at this
  exact this

/-- A range that a write does not touch reads as before. -/
theorem State.memRead_memWrite_outside (s : State) (p : Nat) (x : List Byte) (q n : Nat)
    (hm : Memory.wf s.buf) (h : q + n ≤ p ∨ p + x.length ≤ q) :
    (s.memWrite p x).memRead q n = s.memRead q n :=
  State.memRead_congr _ _ _ _ _ fun i hi => s.readByte_memWrite_outside p x _ hm (by omega)

/-- A write keeps the memory's canonical form. -/
theorem State.memWrite_wf (s : State) (p : Nat) (x : List Byte) (hm : Memory.wf s.buf) :
    Memory.wf (s.memWrite p x).buf := memWriteBytes_wf _ _ _ hm

/-- The reset memory has the canonical form. -/
theorem State.reset_buf_wf : Memory.wf State.reset.buf := List.Pairwise.nil

end Sys2Proof.Machine
end

