-- ==== Sys2Proof/Laws/Ops.lean ====
section
/-! SUPPORT. What the shared operations of a command can do: the range and overlap rules as arithmetic, and
the one way a command with checks can end. -/

namespace Sys2Proof.Machine

/-- `InBuf` as arithmetic (R56). -/
theorem State.inBuf_iff (s : State) (p : Word) (n : Nat) :
    s.inBuf p n = true ↔ n = 0 ∨ (p ≠ nullAddr ∧ p.toNat + n ≤ s.bufSize) := by
  simp [State.inBuf]

/-- A non-empty range that passes `InBuf` lies inside `BUF`. -/
theorem State.inBuf_bound (s : State) (p : Word) (n : Nat) (h : s.inBuf p n = true) (hn : 0 < n) :
    p.toNat + n ≤ s.bufSize := by
  rcases (s.inBuf_iff p n).mp h with h | h
  · omega
  · exact h.2

/-- `Overlap` as arithmetic (R57). -/
theorem overlap_iff (p1 : Word) (n1 : Nat) (p2 : Word) (n2 : Nat) :
    overlap p1 n1 p2 n2 = true ↔
      0 < n1 ∧ 0 < n2 ∧ p1.toNat < p2.toNat + n2 ∧ p2.toNat < p1.toNat + n1 := by
  simp [overlap, and_assoc]

/-- No check fails exactly when every condition is false (R223). -/
theorem firstFailure_eq_none (cs : List (Bool × Failure)) :
    firstFailure cs = none ↔ ∀ c ∈ cs, c.1 = false := by
  induction cs with
  | nil => simp [firstFailure]
  | cons c cs ih =>
    obtain ⟨b, f⟩ := c
    cases b <;> simp [firstFailure, ih]

/-- The failure reported is that of a check whose condition holds, every earlier one being false
(R223). -/
theorem firstFailure_eq_some (cs : List (Bool × Failure)) (f : Failure)
    (h : firstFailure cs = some f) :
    ∃ pre post, cs = pre ++ (true, f) :: post ∧ ∀ c ∈ pre, c.1 = false := by
  induction cs with
  | nil => simp [firstFailure] at h
  | cons c cs ih =>
    obtain ⟨b, g⟩ := c
    cases b with
    | true =>
      refine ⟨[], cs, ?_, by simp⟩
      simp [firstFailure] at h
      simp [h]
    | false =>
      obtain ⟨pre, post, rfl, hp⟩ := ih (by simpa [firstFailure] using h)
      exact ⟨(false, g) :: pre, post, rfl, by simpa using hp⟩

@[simp] theorem firstFailure_nil : firstFailure [] = none := rfl
@[simp] theorem firstFailure_true (f : Failure) (cs : List (Bool × Failure)) :
    firstFailure ((true, f) :: cs) = some f := rfl
@[simp] theorem firstFailure_false (f : Failure) (cs : List (Bool × Failure)) :
    firstFailure ((false, f) :: cs) = firstFailure cs := rfl

/-- Everything a command with checks can do: the first failing check is raised, or all passed and the
effect happens (R220, R223). -/
theorem State.checked_cases (s : State) (cs : List (Bool × Failure)) (e : Unit → State) :
    (∃ f, firstFailure cs = some f ∧ s.checked cs e = s.raise f) ∨
      (firstFailure cs = none ∧ s.checked cs e = e ()) := by
  unfold State.checked
  cases h : firstFailure cs with
  | some f => exact .inl ⟨f, rfl, rfl⟩
  | none => exact .inr ⟨rfl, rfl⟩

/-- The effect happens when every check passes. -/
theorem State.checked_of_pass (s : State) (cs : List (Bool × Failure)) (e : Unit → State)
    (h : ∀ c ∈ cs, c.1 = false) : s.checked cs e = e () := by
  unfold State.checked
  rw [(firstFailure_eq_none cs).mpr h]

@[simp] theorem State.checked_nil (s : State) (e : Unit → State) : s.checked [] e = e () := rfl
@[simp] theorem State.checked_true (s : State) (f : Failure) (cs : List (Bool × Failure))
    (e : Unit → State) : s.checked ((true, f) :: cs) e = s.raise f := rfl
@[simp] theorem State.checked_false (s : State) (f : Failure) (cs : List (Bool × Failure))
    (e : Unit → State) : s.checked ((false, f) :: cs) e = s.checked cs e := rfl

/-- A property that `raise` and the effect both have, the command has. -/
theorem State.checked_induct (P : State → Prop) (s : State) (cs : List (Bool × Failure))
    (e : Unit → State) (hr : ∀ f, firstFailure cs = some f → P (s.raise f))
    (he : firstFailure cs = none → P (e ())) : P (s.checked cs e) := by
  rcases s.checked_cases cs e with ⟨f, hf, h⟩ | ⟨hn, h⟩
  · exact h ▸ hr f hf
  · exact h ▸ he hn

end Sys2Proof.Machine
end

