-- ==== Sys2Proof/Laws/Phy.lean ====
section
/-! SUPPORT. Lengths in the 3-out-of-6 coder: the encoded stream, and what decoding can leave. -/

namespace Sys2Proof.Machine

@[simp] theorem length_msbFirst (n : Nat) (v : BitVec n) : (msbFirst n v).length = n := by
  induction n with
  | zero => rfl
  | succ n ih => simp [msbFirst, ih]

@[simp] theorem length_codeBits (b : Byte) : (codeBits b).length = 12 := by simp [codeBits]

/-- The stream of `N` bytes has `12·N` bits (R142). -/
@[simp] theorem length_codeStream (w : List Byte) : (codeStream w).length = 12 * w.length := by
  induction w with
  | nil => rfl
  | cons b w ih => simp only [codeStream, List.flatMap_cons, List.length_append, length_codeBits,
      List.length_cons] at *; omega

/-- A bit stream fills its length div 8 whole bytes (R142). -/
theorem length_packBytes (bs : List Bool) : (packBytes bs).length = bs.length / 8 := by
  induction bs using packBytes.induct with
  | case1 b7 b6 b5 b4 b3 b2 b1 b0 rest ih => simp [packBytes, ih]; omega
  | case2 bs h =>
    have hb : bs.length < 8 := by
      match bs, h with
      | [], _ | [_], _ | [_, _], _ | [_, _, _], _ | [_, _, _, _], _ | [_, _, _, _, _], _
      | [_, _, _, _, _, _], _ | [_, _, _, _, _, _, _], _ => simp
      | b7 :: b6 :: b5 :: b4 :: b3 :: b2 :: b1 :: b0 :: rest, h =>
        exact absurd rfl (h b7 b6 b5 b4 b3 b2 b1 b0 rest)
    rw [packBytes.eq_def]
    split
    · simp at hb; omega
    · simp; omega

/-- The encoded form of `N` bytes: the whole code bytes and one more (R143, R144). -/
theorem length_encode3of6 (w : List Byte) : (encode3of6 w).length = 3 * w.length / 2 + 1 := by
  unfold encode3of6
  split <;> simp [length_packBytes] <;> omega

/-- The encoded form of a frame of `n` bytes is `EncLen(n)` bytes long (R143). -/
theorem length_phyEncode (x : List Byte) : (phyEncode x).length = encLen x.length := by
  simp only [phyEncode, length_encode3of6, withCrc, encLen, numBlocks]
  rw [length_withCrcBlocks _ _ (sum_blocks _)]

/-- Decoding leaves at most the bytes of its blocks (R148). -/
theorem length_decodeBytes (n : Nat) (bs : List Bool) (r : List Byte)
    (h : decodeBytes n bs = some r) : r.length = n := by
  induction n generalizing bs r with
  | zero => simp [decodeBytes] at h; simp [h]
  | succ n ih =>
    simp only [decodeBytes] at h
    split at h
    · cases h
    · split at h
      · cases h
      · rename_i b _ r' hr
        cases h
        simp [ih _ _ hr]

/-- What decoding can leave: never more bytes than the blocks hold, all of them exactly when no block
fails, and otherwise a framing failure of cause 1 or 2 at a block of the frame (R148, R149). -/
theorem decodeBlocks_cases (ks : List Nat) (b : Nat) (bs : List Bool) :
    ((decodeBlocks ks b bs).failure = none ∧ (decodeBlocks ks b bs).bytes.length = ks.sum ∧
        (decodeBlocks ks b bs).verified = b + ks.length) ∨
      (∃ j, j < ks.length ∧ (decodeBlocks ks b bs).verified = b + j ∧
        (decodeBlocks ks b bs).bytes.length = (ks.take j).sum ∧
        ((decodeBlocks ks b bs).failure = some (.invalidCode (b + j)) ∨
          (decodeBlocks ks b bs).failure = some (.crcMismatch (b + j)))) := by
  induction ks generalizing b bs with
  | nil => simp [decodeBlocks]
  | cons k ks ih =>
    unfold decodeBlocks
    split
    · exact .inr ⟨0, by simp⟩
    · rename_i r hr
      split
      · exact .inr ⟨0, by simp⟩
      · have hl : (r.take k).length = k := by simp [length_decodeBytes _ _ _ hr]
        rcases ih (b + 1) (bs.drop (12 * (k + 2))) with ⟨h1, h2, h3⟩ | ⟨j, h1, h2, h3, h4⟩
        · exact .inl ⟨h1, by simp only [List.length_append, hl, h2, List.sum_cons],
            by simp only [h3, List.length_cons]; omega⟩
        · refine .inr ⟨j + 1, by simpa using h1, by simp only [h2]; omega, ?_, ?_⟩
          · simp only [List.length_append, hl, h3, List.take_succ_cons, List.sum_cons]
          · simpa only [show b + (j + 1) = b + 1 + j by omega] using h4

/-- Decoding a frame of `n` bytes leaves at most `n` bytes (R149). -/
theorem length_phyDecode_le (n : Nat) (e : List Byte) : (phyDecode n e).bytes.length ≤ n := by
  have hs := sum_blocks n
  rcases decodeBlocks_cases (blocks n) 0 (byteStream e) with ⟨_, h, _⟩ | ⟨j, _, _, h, _⟩
  · exact le_of_eq (h.trans hs)
  · refine le_of_eq_of_le h ?_
    calc ((blocks n).take j).sum ≤ ((blocks n).take j).sum + ((blocks n).drop j).sum := by omega
      _ = n := by rw [← List.sum_append, List.take_append_drop, hs]

end Sys2Proof.Machine
end

