-- ==== Sys2Proof/Laws/Exec.lean ====
section
/-! SUPPORT. Everything a command can do, said once: every command answers a next state, and that state is of
one of the shapes of `CommandEnd`. -/

namespace Sys2Proof.Machine

/-- The bytes `x` stored at `p` lie inside `BUF`, or there are none. -/
def FitsBuf (s : State) (p : Nat) (x : List Byte) : Prop := x = [] ∨ p + x.length ≤ s.bufSize

/-- The shapes of the state a command leaves. -/
inductive CommandEnd (i : Instr) (s : State) : State → Prop where
  /-- It failed: nothing but the report and the results. -/
  | failed (f : Failure) (hi : f.index = 0#16) : CommandEnd i s (s.raise f)
  /-- It succeeded and stored nothing. -/
  | finished (v : Bank) : CommandEnd i s (s.done v)
  /-- It succeeded and stored one sequence of bytes. -/
  | stored (p : Nat) (x : List Byte) (v : Bank) (hx : FitsBuf s p x) :
      CommandEnd i s ((s.memWrite p x).done v)
  /-- A Mode 5 header build succeeded: it stored the ciphertext and the header. -/
  | storedTwo (p q : Nat) (x y : List Byte) (v : Bank) (hx : FitsBuf s p x) (hy : FitsBuf s q y)
      (hi : i = .stlBuild ∨ i = .ltlBuild) :
      CommandEnd i s (((s.memWrite p x).memWrite q y).done v)
  /-- SET_MODE succeeded. -/
  | moded (m : BitVec 4) (hm : m.toNat ≤ 8) (hi : i = .setMode) : CommandEnd i s ((s.setMode m).done {})
  /-- SET_KEY succeeded. -/
  | keyed (k : Block) (hi : i = .setKey) : CommandEnd i s ((s.setKey k).done {})
  /-- PHY_DECODE failed in a block, the verified ones stored. -/
  | salvaged (p : Nat) (x : List Byte) (f : Failure) (v : Bank) (hx : FitsBuf s p x)
      (hf : ∃ b, f = .invalidCode b ∨ f = .crcMismatch b) (hi : i = .phyDecode) :
      CommandEnd i s ((s.memWrite p x).raise f v)

/-- A range that passes `InBuf` with at least the bytes stored fits `BUF`. -/
theorem fitsBuf_of_inBuf (s : State) (p : Word) (n : Nat) (x : List Byte) (h : s.inBuf p n = true)
    (hx : x.length ≤ n) : FitsBuf s p.toNat x := by
  rcases Nat.eq_zero_or_pos x.length with h0 | h0
  · exact .inl (List.eq_nil_of_length_eq_zero h0)
  · have := s.inBuf_bound p n h (by omega)
    exact .inr (by omega)

/-- A command with checks ends in a failure without an index or in its effect. -/
theorem checked_end (i : Instr) (s : State) (cs : List (Bool × Failure)) (e : Unit → State)
    (hc : ∀ c ∈ cs, c.2.index = 0#16)
    (he : (∀ c ∈ cs, c.1 = false) → CommandEnd i s (e ())) : CommandEnd i s (s.checked cs e) := by
  refine State.checked_induct (CommandEnd i s) s cs e (fun f hf => ?_) (fun hn => ?_)
  · obtain ⟨pre, post, rfl, _⟩ := firstFailure_eq_some cs f hf
    exact .failed f (hc (true, f) (by simp))
  · exact he ((firstFailure_eq_none cs).mp hn)

section
variable (s : State)

theorem execSetMode_end : ∃ t, execSetMode s = .next t ∧ CommandEnd .setMode s t := by
  refine ⟨_, rfl, checked_end _ _ _ _ (by simp [Failure.index]) fun h => ?_⟩
  simp at h
  exact .moded _ h rfl

theorem execMfrEnc_end : ∃ t, execMfrEnc s = .next t ∧ CommandEnd .mfrEnc s t :=
  ⟨_, rfl, checked_end _ _ _ _ (by simp [Failure.index]) fun _ => .finished _⟩

theorem execMfrDec_end : ∃ t, execMfrDec s = .next t ∧ CommandEnd .mfrDec s t :=
  ⟨_, rfl, checked_end _ _ _ _ (by simp [Failure.index]) fun _ => .finished _⟩

theorem execCwPack_end : ∃ t, execCwPack s = .next t ∧ CommandEnd .cwPack s t :=
  ⟨_, rfl, checked_end _ _ _ _ (by simp [Failure.index]) fun _ => .finished _⟩

theorem execCwUnpack_end : ∃ t, execCwUnpack s = .next t ∧ CommandEnd .cwUnpack s t :=
  ⟨_, rfl, checked_end _ _ _ _ (by simp [Failure.index]) fun _ => .finished _⟩

theorem execDllBuild_end : ∃ t, execDllBuild s = .next t ∧ CommandEnd .dllBuild s t := by
  refine ⟨_, rfl, checked_end _ _ _ _ (by simp [Failure.index]) fun h => ?_⟩
  simp at h
  exact .stored _ _ _ (fitsBuf_of_inBuf _ _ _ _ h.1 (by simpa using h.2.2))

theorem execDllParse_end : ∃ t, execDllParse s = .next t ∧ CommandEnd .dllParse s t :=
  ⟨_, rfl, checked_end _ _ _ _ (by simp [Failure.index]) fun _ => .finished _⟩

/-- The checks of a header build report no index. -/
theorem transportChecks_index (o : TransportOps) (n : Nat) :
    ∀ c ∈ transportChecks s o n, c.2.index = 0#16 := by
  unfold transportChecks
  split <;> simp [Failure.index]

/-- A padded payload of `plen` bytes makes a ciphertext of its whole blocks. -/
theorem length_transportCiphertext (o : TransportOps) (d : DeviceAddress) :
    (transportCiphertext s o d).length = 16 * ceilDiv16 o.plen.toNat := by
  have : o.plen.toNat ≤ 16 * ceilDiv16 o.plen.toNat := by unfold ceilDiv16; omega
  rw [transportCiphertext, length_cbcEncrypt, length_pad _ _ (by simpa using this)]
  omega

/-- What the effect of a header build can leave, given its checks. -/
theorem transport_end (i : Instr) (hi : i = .stlBuild ∨ i = .ltlBuild) (o : TransportOps) (n : Nat)
    (d : DeviceAddress) (hd : BitVec 16 → List Byte) (hn : ∀ cw, (hd cw).length = n) :
    CommandEnd i s (s.checked (transportChecks s o n) fun _ => transportEffect s o n d hd) := by
  refine checked_end _ _ _ _ (transportChecks_index s o n) fun h => ?_
  unfold transportChecks at h
  unfold transportEffect
  split
  · rename_i hm
    simp [hm] at h
    obtain ⟨-, -, -, ⟨h1, h2⟩, -, -, h3, h4⟩ := h
    exact .storedTwo _ _ _ _ _
      (fitsBuf_of_inBuf _ _ _ _ h2 (by rw [length_transportCiphertext]; exact h4))
      (fitsBuf_of_inBuf _ _ _ _ h1 (by rw [hn]; exact h3)) hi
  · rename_i hm
    simp [hm] at h
    exact .stored _ _ _ (fitsBuf_of_inBuf _ _ _ _ h.2.1 (by rw [hn]; exact h.2.2))

theorem execStlBuild_end : ∃ t, execStlBuild s = .next t ∧ CommandEnd .stlBuild s t :=
  ⟨_, rfl, transport_end s _ (.inl rfl) _ _ _ _ fun _ => rfl⟩

theorem execStlParse_end : ∃ t, execStlParse s = .next t ∧ CommandEnd .stlParse s t :=
  ⟨_, rfl, checked_end _ _ _ _ (by simp [transportParseChecks, Failure.index]) fun _ => .finished _⟩

theorem execLtlBuild_end : ∃ t, execLtlBuild s = .next t ∧ CommandEnd .ltlBuild s t :=
  ⟨_, rfl, transport_end s _ (.inr rfl) _ _ _ _ fun _ => rfl⟩

theorem execLtlParse_end : ∃ t, execLtlParse s = .next t ∧ CommandEnd .ltlParse s t :=
  ⟨_, rfl, checked_end _ _ _ _ (by simp [transportParseChecks, Failure.index]) fun _ => .finished _⟩

theorem execCrc16_end : ∃ t, execCrc16 s = .next t ∧ CommandEnd .crc16 s t :=
  ⟨_, rfl, checked_end _ _ _ _ (by simp [Failure.index]) fun _ => .finished _⟩

theorem execPhyEncode_end : ∃ t, execPhyEncode s = .next t ∧ CommandEnd .phyEncode s t := by
  refine ⟨_, rfl, checked_end _ _ _ _ (by simp [Failure.index]) fun _ => ?_⟩
  split
  · exact .finished _
  · refine checked_end _ _ _ _ (by simp [Failure.index]) fun h => ?_
    simp at h
    obtain ⟨-, ⟨-, h1⟩, -, h2⟩ := h
    exact .stored _ _ _ (fitsBuf_of_inBuf _ _ _ _ h1 (by rw [length_phyEncode]; simpa using h2))

/-- The failure PHY_DECODE ends in, if any, is a framing failure of a block. -/
theorem phyDecode_failure (n : Nat) (e : List Byte) (f : Failure) (h : (phyDecode n e).failure = some f) :
    ∃ b, f = .invalidCode b ∨ f = .crcMismatch b := by
  rcases decodeBlocks_cases (blocks n) 0 (byteStream e) with ⟨h1, _⟩ | ⟨j, _, _, _, h1 | h1⟩
  · rw [phyDecode, h1] at h; cases h
  · rw [phyDecode, h1] at h; cases h; exact ⟨_, .inl rfl⟩
  · rw [phyDecode, h1] at h; cases h; exact ⟨_, .inr rfl⟩

theorem execPhyDecode_end : ∃ t, execPhyDecode s = .next t ∧ CommandEnd .phyDecode s t := by
  refine ⟨_, rfl, checked_end _ _ _ _ (by simp [Failure.index]) fun _ => ?_⟩
  split
  · exact .finished _
  · refine checked_end _ _ _ _ (by simp [Failure.index]) fun h => ?_
    simp at h
    obtain ⟨⟨-, h1⟩, -, -, h2⟩ := h
    have hx : FitsBuf s (phyOperands s.a).dst.toNat
        (phyDecode ((decLen (phyOperands s.a).len.toNat).getD 0)
          (s.memRead (phyOperands s.a).src.toNat (phyOperands s.a).len.toNat)).bytes :=
      fitsBuf_of_inBuf _ _ _ _ h1 ((length_phyDecode_le _ _).trans h2)
    simp only [phyDecodeEffect]
    split
    · rename_i f hf
      exact .salvaged _ _ _ _ hx (phyDecode_failure _ _ f hf) rfl
    · exact .stored _ _ _ hx

theorem execSetKey_end : ∃ t, execSetKey s = .next t ∧ CommandEnd .setKey s t :=
  ⟨_, rfl, checked_end _ _ _ _ (by simp [Failure.index]) fun _ => .keyed _ rfl⟩

theorem execGetKey_end : ∃ t, execGetKey s = .next t ∧ CommandEnd .getKey s t := by
  refine ⟨_, rfl, checked_end _ _ _ _ (by simp [Failure.index]) fun h => ?_⟩
  simp at h
  obtain ⟨-, -, -, h1, h2⟩ := h
  exact .stored _ _ _ (fitsBuf_of_inBuf _ _ _ _ h1 (by simpa using h2))

theorem execDeriveIv_end : ∃ t, execDeriveIv s = .next t ∧ CommandEnd .deriveIv s t := by
  refine ⟨_, rfl, checked_end _ _ _ _ (by simp [Failure.index]) fun h => ?_⟩
  simp at h
  obtain ⟨-, -, h1, h2⟩ := h
  exact .stored _ _ _ (fitsBuf_of_inBuf _ _ _ _ h1 (by simpa using h2))

theorem execEncrypt_end : ∃ t, execEncrypt s = .next t ∧ CommandEnd .encrypt s t := by
  refine ⟨_, rfl, checked_end _ _ _ _ (by simp [cryptInputChecks, cryptRangeChecks, Failure.index])
    fun h => ?_⟩
  simp [cryptInputChecks, cryptRangeChecks] at h
  obtain ⟨-, -, -, -, h1, ⟨⟨-, h2⟩, -⟩, -, h3⟩ := h
  refine .stored _ _ _ (fitsBuf_of_inBuf _ _ _ _ h2 ?_)
  rw [length_cbcEncrypt, length_pad _ _ (by simpa using h1)]
  omega

theorem execDecrypt_end : ∃ t, execDecrypt s = .next t ∧ CommandEnd .decrypt s t := by
  refine ⟨_, rfl, checked_end _ _ _ _ (by simp [cryptInputChecks, cryptRangeChecks, Failure.index])
    fun h => ?_⟩
  simp [cryptInputChecks, cryptRangeChecks] at h
  obtain ⟨-, -, -, -, ⟨⟨-, h2⟩, -⟩, -, h3⟩ := h
  refine .stored _ _ _ (fitsBuf_of_inBuf _ _ _ _ h2 ?_)
  rw [length_cbcDecrypt, State.length_memRead]
  omega

theorem execPutRecord_end : ∃ t, execPutRecord s = .next t ∧ CommandEnd .putRecord s t := by
  refine ⟨_, rfl, checked_end _ _ _ _ (by simp [Failure.index]) fun h => ?_⟩
  simp at h
  obtain ⟨-, h1, h2⟩ := h
  exact .stored _ _ _ (fitsBuf_of_inBuf _ _ _ _ h1 (by simpa using h2))

theorem execGetRecord_end : ∃ t, execGetRecord s = .next t ∧ CommandEnd .getRecord s t := by
  refine ⟨_, rfl, checked_end _ _ _ _ (by simp [Failure.index]) fun _ => ?_⟩
  simp only [getRecordFrom]
  split
  · exact .finished _
  · exact checked_end _ _ _ _ (by simp [Failure.index]) fun _ => .finished _

/-- A meter frame is as long as R204 says. -/
theorem length_meterFrame (o : MeterOps) : (meterFrame s o).length = meterLength o := by
  have h : (meterBody s o).length = if o.encrypt then 16 else 10 := by
    unfold meterBody
    cases o.encrypt <;> simp [length_meterPayload, length_cbcEncrypt, length_pad]
  simp only [meterFrame, List.length_append, length_dllHeader, length_stlHeader, h, meterLength]
  split <;> rfl

theorem execBuildMeterFrame_end :
    ∃ t, execBuildMeterFrame s = .next t ∧ CommandEnd .buildMeterFrame s t := by
  refine ⟨_, rfl, checked_end _ _ _ _ (by simp [Failure.index]) fun h => ?_⟩
  simp at h
  exact .stored _ _ _ (fitsBuf_of_inBuf _ _ _ _ h.2.1 (by rw [length_meterFrame]; exact h.2.2))

theorem execAccessWindow_end : ∃ t, execAccessWindow s = .next t ∧ CommandEnd .accessWindow s t :=
  ⟨_, rfl, checked_end _ _ _ _ (by simp [Failure.index]) fun _ => .finished _⟩

end

/-- Everything a command can do (R231): it answers a next state of one of the shapes of `CommandEnd`. -/
theorem exec_end (i : Instr) (s : State) : ∃ t, exec i s = .next t ∧ CommandEnd i s t := by
  cases i with
  | nop => exact ⟨_, rfl, .finished _⟩
  | setMode => exact execSetMode_end s
  | mfrEnc => exact execMfrEnc_end s
  | mfrDec => exact execMfrDec_end s
  | cwPack => exact execCwPack_end s
  | cwUnpack => exact execCwUnpack_end s
  | dllBuild => exact execDllBuild_end s
  | dllParse => exact execDllParse_end s
  | stlBuild => exact execStlBuild_end s
  | stlParse => exact execStlParse_end s
  | ltlBuild => exact execLtlBuild_end s
  | ltlParse => exact execLtlParse_end s
  | crc16 => exact execCrc16_end s
  | phyEncode => exact execPhyEncode_end s
  | phyDecode => exact execPhyDecode_end s
  | setKey => exact execSetKey_end s
  | getKey => exact execGetKey_end s
  | deriveIv => exact execDeriveIv_end s
  | encrypt => exact execEncrypt_end s
  | decrypt => exact execDecrypt_end s
  | putRecord => exact execPutRecord_end s
  | getRecord => exact execGetRecord_end s
  | buildMeterFrame => exact execBuildMeterFrame_end s
  | accessWindow => exact execAccessWindow_end s
  | accessDelay => exact ⟨_, rfl, .finished _⟩

/-- The state a command leaves has one of the shapes of `CommandEnd`. -/
theorem commandEnd_of_exec (i : Instr) (s t : State) (h : exec i s = .next t) : CommandEnd i s t := by
  obtain ⟨u, hu, he⟩ := exec_end i s
  rw [hu] at h
  cases h
  exact he

end Sys2Proof.Machine
end

