-- ==== Sys2Proof/Laws/PerInstr.lean ====
section
/-! SUPPORT. Statements about every instruction, one lemma per constructor. -/

namespace Sys2Proof.Laws.LegalWord

/-- The word of a command is legal (R73) and below 0x100 (R70: `RSV` is 0), and the command is well
formed. -/
def Statement (i : Instr) : Prop :=
  wordWellFormed (encode i) = true ∧ (encode i).toNat < 0x100 ∧ i.wellFormed = true

theorem nop : Statement .nop := by unfold Statement; decide
theorem setMode : Statement .setMode := by unfold Statement; decide
theorem mfrEnc : Statement .mfrEnc := by unfold Statement; decide
theorem mfrDec : Statement .mfrDec := by unfold Statement; decide
theorem cwPack : Statement .cwPack := by unfold Statement; decide
theorem cwUnpack : Statement .cwUnpack := by unfold Statement; decide
theorem dllBuild : Statement .dllBuild := by unfold Statement; decide
theorem dllParse : Statement .dllParse := by unfold Statement; decide
theorem stlBuild : Statement .stlBuild := by unfold Statement; decide
theorem stlParse : Statement .stlParse := by unfold Statement; decide
theorem ltlBuild : Statement .ltlBuild := by unfold Statement; decide
theorem ltlParse : Statement .ltlParse := by unfold Statement; decide
theorem crc16 : Statement .crc16 := by unfold Statement; decide
theorem phyEncode : Statement .phyEncode := by unfold Statement; decide
theorem phyDecode : Statement .phyDecode := by unfold Statement; decide
theorem setKey : Statement .setKey := by unfold Statement; decide
theorem getKey : Statement .getKey := by unfold Statement; decide
theorem deriveIv : Statement .deriveIv := by unfold Statement; decide
theorem encrypt : Statement .encrypt := by unfold Statement; decide
theorem decrypt : Statement .decrypt := by unfold Statement; decide
theorem putRecord : Statement .putRecord := by unfold Statement; decide
theorem getRecord : Statement .getRecord := by unfold Statement; decide
theorem buildMeterFrame : Statement .buildMeterFrame := by unfold Statement; decide
theorem accessWindow : Statement .accessWindow := by unfold Statement; decide
theorem accessDelay : Statement .accessDelay := by unfold Statement; decide

end Sys2Proof.Laws.LegalWord
end

