-- ==== Sys2Proof/Tests/Slice0.lean ====
section
/-! SUPPORT. The tests: the vectors of spec/95_test_vectors.md, command words written out from R71, an
ill-formed term for each check of well-formedness, and for every obligation with hypotheses a state that
meets them. -/

open Sys2Proof Sys2Proof.Machine

namespace Sys2Proof.Tests

-- One theorem after another: elaborated side by side, these evaluations ask for too many threads.
set_option Elab.async false

/-! ### Helpers: small states, and what a command leaves -/

/-- The instance of spec/95_test_vectors.md: `BUF_SIZE` 4096, the device ESP 0x12345678 01 07. -/
def base : State :=
  { State.reset with bufSize := 4096, dev := ⟨0x1670#16, 0x12345678#32, 0x01#8, 0x07#8⟩ }

/-- Key K0 of spec/95_test_vectors.md. -/
def keyK0 : Block := ⟨⟨0, 1, 2, 3⟩, ⟨4, 5, 6, 7⟩, ⟨8, 9, 10, 11⟩, ⟨12, 13, 14, 15⟩⟩

/-- `s` with key K0 set. -/
def withKey (s : State) : State := s.setKey keyK0

/-- `s` with T-Meter selected. -/
def inTMeter (s : State) : State := s.setMode 1#4

/-- `s` with the HOST about to write the command word `w`. -/
def issue (w : Word) (s : State) : State := { s with inputs := [.write 0x000 .word w] }

/-- The state an outcome goes on in; the state after reset where it does not go on. -/
def after : Host.Outcome State Fault Refusal → State
  | .next t => t
  | _ => State.reset

/-- The state the command `i` leaves when it runs on the argument registers `b`. -/
def run (i : Instr) (b : Bank) (s : State) : State := after (exec i { s with a := b })

/-- The status and `ERRINFO` the command `i` reports for each of the given argument banks. -/
def reports (i : Instr) (s : State) (bs : List Bank) : List (Nat × Nat) :=
  bs.map fun b => let t := run i b s; (t.status.toNat, t.errinfo.toNat)

/-- Whether a step goes on. -/
def goesOn : Host.Outcome State Fault Refusal → Bool
  | .next _ => true
  | _ => false

/-- The fault of a step, if it ends in one. -/
def faultOf : Host.Outcome State Fault Refusal → Option Fault
  | .fault f => some f
  | _ => none

/-! ### Words, well-formedness, decoding -/

/-- R73: each check refuses an ill-formed word: `RSV` not 0 (lowest and highest bit), and both ends of
each unassigned range. -/
theorem test_wellformed_refuses :
    rsvIsZero 0x101#32 = false ∧ rsvIsZero 0x80000000#32 = false ∧
      [0x02#8, 0x0F#8, 0x1A#8, 0x1F#8, 0x21#8, 0x2F#8, 0x32#8, 0x3F#8, 0x45#8, 0x4F#8, 0x55#8,
        0xFF#8].all opcUnassigned = true ∧
      wordWellFormed 0x101#32 = false ∧ wordWellFormed 0x02#32 = false := by decide +kernel

/-- R73 for every value of an opcode: the check of WellFormed and the decoder agree. -/
theorem test_wellformed_agrees_with_decoder :
    (List.range 256).all (fun n => (decodeTableWord 8 n).isSome == wordWellFormed (BitVec.ofNat 32 n))
      = true := by decide +kernel

/-- R71, the opcode map, word by word. -/
theorem test_decode_every_word :
    [0x00, 0x01, 0x10, 0x11, 0x12, 0x13, 0x14, 0x15, 0x16, 0x17, 0x18, 0x19, 0x20, 0x30, 0x31, 0x40, 0x41,
      0x42, 0x43, 0x44, 0x50, 0x51, 0x52, 0x53, 0x54].map (decodeTableWord 32) =
    [some .nop, some .setMode, some .mfrEnc, some .mfrDec, some .cwPack, some .cwUnpack, some .dllBuild,
      some .dllParse, some .stlBuild, some .stlParse, some .ltlBuild, some .ltlParse, some .crc16,
      some .phyEncode, some .phyDecode, some .setKey, some .getKey, some .deriveIv, some .encrypt,
      some .decrypt, some .putRecord, some .getRecord, some .buildMeterFrame, some .accessWindow,
      some .accessDelay] := by decide +kernel

/-- R73: a word with an `RSV` bit set is refused though its opcode is assigned. -/
theorem test_decode_refuses_rsv :
    decodeTableWord 32 0x100 = none ∧ decodeTableWord 32 0x80000014 = none := by decide +kernel

/-- StepRunsDecodedCommand: a word written to `CMD` that decodes. -/
theorem test_step_hypotheses :
    (issue 0x14#32 base).inputs = .write 0x000 .word 0x14#32 :: [] ∧ decode 0x14#32 = .ok .dllBuild :=
  ⟨rfl, rfl⟩

/-- IllegalWordOnlyReports at both ends of each of its ranges: ST 5/1. -/
theorem test_illegal_words_report :
    ([0x02, 0x0F, 0x1A, 0x1F, 0x21, 0x2F, 0x32, 0x3F, 0x45, 0x4F, 0x55, 0xFF, 0x100, 0xFFFFFFFF].map
      fun w => let t := after (step (issue (BitVec.ofNat 32 w) base)); (t.status, t.errinfo, t.cmd.toNat)) =
    [0x02, 0x0F, 0x1A, 0x1F, 0x21, 0x2F, 0x32, 0x3F, 0x45, 0x4F, 0x55, 0xFF, 0x100, 0xFFFFFFFF].map
      fun w => (5#32, 1#32, w) := by decide +kernel

/-- `withFetchWord` places the word where the next step runs it: SET_MODE on a register bank of zeros
selects FrameMode 0. -/
theorem test_fetch_runs_the_word :
    (after (step (State.reset.withFetchWord 32 0x01))).modestat = 0x100#32 := by decide +kernel

/-! ### Reset, the invariant, the bus -/

/-- R250: a reset event invalidates `MODE` and `KEY`, clears the registers, keeps the device address. -/
theorem test_reset_event :
    let s := { inTMeter (withKey (issue 0x14#32 base)) with inputs := [.reset], status := 5#32 }
    let t := after (step s)
    t.modestat = 0#32 ∧ t.keystat = 0#32 ∧ t.status = 0#32 ∧ t.dev = s.dev ∧ t.bufSize = s.bufSize := by
  decide +kernel

/-- InvariantKeptByEveryStep: a state after a failing command, with bytes in `BUF`, about to run NOP. -/
theorem test_invariant_hypotheses :
    let s := issue 0x00#32 { (inTMeter base).memWrite 4094 [1#8, 2#8] with status := 2#32, errinfo := 0x1001#32 }
    s.Inv ∧ step s = .next (after (step s)) := by
  unfold State.Inv ParamsLegal ReportLegal
  exact ⟨⟨by decide +kernel, by decide +kernel, by decide +kernel, by decide +kernel, by decide +kernel⟩, rfl⟩

/-- HostWriteSetsOneArgument: the first and the last argument register, their neighbours, and the last
reserved offset. -/
theorem test_host_write_offsets :
    ([0x004, 0x01C, 0x020, 0x03C, 0x040, 0xFFC].map fun off =>
      (after (step { base with inputs := [.write off .word 7#32] })).a) =
    [{}, {}, { r0 := 7#32 }, { r7 := 7#32 }, {}, {}] := by decide +kernel

/-- HostReadReturnsTheBusMap: each register of R51 once, both ends of the banks, a reserved offset. -/
theorem test_host_read_offsets :
    ([0x000, 0x004, 0x008, 0x00C, 0x010, 0x014, 0x018, 0x01C, 0x020, 0x03C, 0x040, 0x05C, 0x060, 0xFFC].map
      fun off => (after (step
        { inTMeter (withKey base) with
          cmd := 0x14#32, status := 2#32, errinfo := 0x102#32, a := ⟨10, 0, 0, 0, 0, 0, 0, 17⟩,
          v := ⟨20, 0, 0, 0, 0, 0, 0, 27⟩, inputs := [.read off .word] })).readData.toNat) =
    [0x14, 2, 0x102, 0x101, 1, 0x1670, 0x12345678, 0x701, 10, 17, 20, 27, 0, 0] := by decide +kernel

/-- HostWindowIsLittleEndian at both ends of `BUF`: bytes, halfwords and words. -/
theorem test_host_window :
    (let w := fun off size (x : Word) => after (step { base with inputs := [.write off size x] })
    (w 0x1000 .word 0x11223344#32).memRead 0 4 = [0x44, 0x33, 0x22, 0x11] ∧
      (w 0x1FFC .word 0x11223344#32).memRead 4092 4 = [0x44, 0x33, 0x22, 0x11] ∧
      (w 0x1FFE .half 0x11223344#32).memRead 4094 2 = [0x44, 0x33] ∧
      (w 0x1FFF .byte 0x11223344#32).memRead 4095 1 = [0x44]) ∧
    Memory.wf base.buf := by decide +kernel

/-- HostWindowIsLittleEndian, its reads: bytes a command stored (DERIVE_IV, 2.5) and bytes at both ends of
`BUF`, in every width. -/
theorem test_host_window_reads :
    (let s := run .deriveIv ⟨0x500, 16, 0x1670, 0x12345678, 0x0701, 5, 0, 0⟩
      ((base.memWrite 0 [0x11, 0x22, 0x33, 0x44]).memWrite 4092 [0x55, 0x66, 0x77, 0x88])
    [(0x1500, AccessSize.word), (0x1502, .word), (0x1506, .half), (0x1000, .word), (0x1FFC, .word), (0x1FFE, .half),
      (0x1FFF, .byte)].map fun p => match step { s with inputs := [.read p.1 p.2] } with
        | .next t => t.readData.toNat
        | _ => 0) = [0x56781670, 0, 0x0701, 0x44332211, 0x88776655, 0x8877, 0x88] := by decide +kernel

/-- HostNonMovesHaveNoStep: both sides of each of its clauses, reads and writes, a narrow read at a reserved
offset (log entry 13), and the model's own misaligned case (log entry 8). -/
theorem test_host_non_moves :
    ([.write 0x000 .half 1#32, .read 0xFFF .byte, .write 0x022 .word 0#32, .read 0x2000 .byte,
        .write 0x1FFE .word 0#32, .read 0x1FFF .half, .read 0x1001 .word].map
      fun e => faultOf (step { base with inputs := [e] })) =
    [some .registerAccessNotAlignedWord, some .registerAccessNotAlignedWord,
      some .registerAccessNotAlignedWord, some .offsetOutsideCore, some .offsetOutsideCore,
      some .offsetOutsideCore, some .windowAccessMisaligned] := by decide +kernel

/-! ### Statements about every command -/

/-- CommandsKeepArgumentsAndConfiguration, UnnamedOperandBitsIgnored: every command answers a next
state. -/
theorem test_every_command_goes_on :
    ((List.range 0x55).all fun n => match decodeTableWord 32 n with
      | some i => goesOn (exec i base)
      | none => true) = true := by decide +kernel

/-- FailedCommandsLeaveOutputsUntouched: DLL_BUILD with a capacity of 9 fails. -/
theorem test_failed_command_hypotheses :
    let s := { base with a := { r1 := 9#32, r5 := 0x44#32, r6 := 31#32 } }
    exec .dllBuild s = .next (after (exec .dllBuild s)) ∧ (after (exec .dllBuild s)).status ≠ 0#32 :=
  ⟨rfl, by decide +kernel⟩

/-- KeyUnobservableWhileInvalid: SET_KEY in a machine without a key goes on and makes one valid; NOP goes
on and does not. -/
theorem test_key_invalid_hypotheses :
    let s := { base.memWrite 0 (keyK0.toBytes) with a := { r1 := 16#32 } }
    s.keyValid = false ∧ (after (exec .setKey s)).keyValid = true ∧
      exec .nop s = .next (after (exec .nop s)) ∧ (after (exec .nop s)).keyValid = false :=
  ⟨rfl, by decide +kernel, rfl, rfl⟩

/-- FrameModeActsOnPhyOnly: MFR_ENC is one of its commands. -/
theorem test_frame_mode_hypotheses :
    Instr.mfrEnc ≠ .setMode ∧ Instr.mfrEnc ≠ .phyEncode ∧ Instr.mfrEnc ≠ .phyDecode ∧
      exec .mfrEnc base = .next (after (exec .mfrEnc base)) :=
  ⟨by decide, by decide, by decide, rfl⟩

/-! ### Configuration and Header Model -/

/-- 2.1: NOP after a failure clears the report. -/
theorem test_nop :
    let t := run .nop {} { base with status := 5#32, errinfo := 2#32, v := { r3 := 7#32 } }
    (t.status, t.errinfo, t.v) = (0#32, 0#32, {}) := by decide +kernel

/-- 2.1: SET_MODE 0, 8, 9, and 0x11, whose upper bits are ignored. -/
theorem test_setMode :
    (([0, 8, 9, 0x11].map fun n => (run .setMode { r0 := BitVec.ofNat 32 n } base).modestat.toNat) =
      [0x100, 0x108, 0, 0x101]) ∧
    reports .setMode base [{ r0 := 8 }, { r0 := 9 }] = [(0, 0), (5, 2)] := by decide +kernel

/-- 2.2: ESP, ABC, ZZZ; `esp` and `@SP` are refused. -/
theorem test_mfrEnc :
    ([0x00505345, 0x00434241, 0x005A5A5A].map fun n =>
      (run .mfrEnc { r0 := BitVec.ofNat 32 n } base).v.r0.toNat) = [0x1670, 0x0443, 0x6B5A] ∧
    reports .mfrEnc base [{ r0 := 0x00414141 }, { r0 := 0x00707365 }, { r0 := 0x00505340 },
      { r0 := 0x005B5A5A }] = [(0, 0), (5, 2), (5, 2), (5, 2)] := by decide +kernel

/-- 2.2: 0x1670 and 0x6B5A; group 0, bit 15 and group 27 are refused. -/
theorem test_mfrDec :
    ([0x1670, 0x6B5A].map fun n => (run .mfrDec { r0 := BitVec.ofNat 32 n } base).v.r0.toNat) =
      [0x00505345, 0x005A5A5A] ∧
    reports .mfrDec base [{ r0 := 0 }, { r0 := 0x8421 }, { r0 := 0x6F5A }] =
      [(5, 2), (5, 2), (5, 2)] := by decide +kernel

/-- R100: ManufacturerCodeRoundTrip at the letters `A` and `Z` and at their codes. -/
theorem test_letters_hypotheses :
    isLetter 0x41#8 = true ∧ isLetter 0x5A#8 = true ∧ isMfrCode 0x0421#16 = true ∧
      isMfrCode 0x6B5A#16 = true := by decide +kernel

/-- 2.2: CW_PACK of two words, and mode 7. -/
theorem test_cwPack :
    ([⟨0, 0, 0, 1, 5, 1, 2, 0⟩, ⟨1, 1, 3, 15, 5, 1, 3, 0⟩, ⟨0, 0, 0, 0, 0, 1, 2, 0⟩].map
      fun b => (run .cwPack b base).v.r0.toNat) = [0xA510, 0xE5FF, 0xA000] ∧
    reports .cwPack base [{ r4 := 7 }] = [(5, 5)] := by decide +kernel

/-- 2.2: CW_UNPACK of two words, and mode 7. -/
theorem test_cwUnpack :
    ([0xA510, 0xE5FF].map fun n => (run .cwUnpack { r0 := BitVec.ofNat 32 n } base).v) =
      [⟨0, 0, 0, 1, 5, 1, 2, 0⟩, ⟨1, 1, 3, 15, 5, 1, 3, 0⟩] ∧
    reports .cwUnpack base [{ r0 := 0x0700 }, { r0 := 0 }] = [(5, 5), (0, 0)] := by decide +kernel

/-- 2.2, ConfigurationWordRoundTrip: CW_PACK and CW_UNPACK of 0xA510 succeed. -/
theorem test_configuration_word_hypotheses :
    reports .cwPack base [⟨0, 0, 0, 1, 5, 1, 2, 0⟩] = [(0, 0)] ∧
    reports .cwUnpack base [{ r0 := 0xA510 }] = [(0, 0)] := by decide +kernel

/-- The operands of DLL_BUILD in 2.2 for a capacity, a frame format bit and a length. -/
def dllOps (dst cap a5 t : Word) : Bank := ⟨dst, cap, 0x1670, 0x12345678, 0x0701, a5, t, 0⟩

/-- 2.2: the header of the 31-byte frame. -/
theorem test_dllBuild :
    (run .dllBuild (dllOps 0 10 0x44 31) base).memRead 0 10 =
      [0x1E, 0x44, 0x70, 0x16, 0x78, 0x56, 0x34, 0x12, 0x01, 0x07] ∧
    ([(0x44, 1), (0x44, 256), (0x144, 124), (0x144, 125), (0x144, 252)].map fun p =>
      (run .dllBuild (dllOps 0 10 (BitVec.ofNat 32 p.1) (BitVec.ofNat 32 p.2)) base).v.r1.toNat) =
      [0x00, 0xFF, 0x7D, 0x80, 0xFF] := by decide +kernel

/-- 2.2: DllBuildWritesHeader, each failure at the edge of its range. -/
theorem test_dllBuild_clauses :
    reports .dllBuild base [dllOps 4087 10 0x44 31, dllOps 0 10 0x44 0, dllOps 0 10 0x44 257,
        dllOps 0 9 0x144 253, dllOps 0 9 0x44 31, dllOps 4086 10 0x44 31] =
      [(5, 3), (4, 1), (4, 1), (4, 1), (1, 1), (0, 0)] ∧ Memory.wf base.buf := by decide +kernel

/-- 2.2: DLL_PARSE, which undoes DLL_BUILD; `avail` 9, and a range past the end. -/
theorem test_dllParse :
    (let t := run .dllBuild (dllOps 4086 10 0x44 31) base
    t.status = 0#32 ∧ t.inBuf 4086 10 = true ∧
      (run .dllParse { r0 := 4086, r1 := 10 } t).v = ⟨0x1E, 0x44, 0x1670, 0x12345678, 1, 7, 0, 0⟩) ∧
    reports .dllParse base [{ r1 := 9 }, { r0 := 4087, r1 := 10 }] = [(5, 8), (5, 3)] := by
  decide +kernel

/-- The payload of the frame in 2.2. -/
def payload : List Byte := [0x2F, 0x2F, 0x04, 0x13, 0x39, 0x30, 0, 0, 0x02, 0x3B, 0x7B, 0]

/-- The ciphertext of that payload under K0 and IV5 (2.2). -/
def ciphertext : List Byte :=
  [0x09, 0xF9, 0x3F, 0xBE, 0xA3, 0x69, 0xF4, 0x9F, 0x01, 0xE9, 0xF8, 0x46, 0x72, 0xBA, 0x32, 0x2A]

/-- The operands of STL_BUILD and LTL_BUILD in 2.2: header at 0, payload at 32. -/
def transport (hcap a2 plen pcap : Word) : Bank :=
  ⟨0, hcap, a2, 32, plen, pcap, 0x12345678, 0x07011670⟩

/-- 2.2: STL_BUILD in modes 5 and 0. -/
theorem test_stlBuild :
    (let t := run .stlBuild (transport 5 0x01020505 12 16) (withKey (base.memWrite 32 payload))
    t.memRead 0 5 = [0x7A, 5, 0, 0x10, 0xA5] ∧ t.memRead 32 16 = ciphertext ∧
      t.v = ⟨5, 16, 0xA510, 1, 0, 0, 0, 0⟩) ∧
    (let t := run .stlBuild (transport 5 0x01020500 10 0) base
    t.memRead 0 5 = [0x7A, 5, 0, 0, 0xA0] ∧ t.v = ⟨5, 10, 0xA000, 0, 0, 0, 0, 0⟩) := by decide +kernel

/-- 2.2: TransportBuildWithEncryption and TransportBuildWithoutEncryption, each failure of STL_BUILD at
the edge of its range, in the order of the checks. -/
theorem test_stlBuild_clauses :
    reports .stlBuild (withKey base) [{ transport 5 0x505 12 16 with r3 := 0xFFFFFFFF },
        transport 5 0x505 0 16, transport 5 0x505 1 4065, transport 33 0x505 1 16,
        transport 5 0x505 241 256, transport 4 0x505 12 16, transport 5 0x505 12 15] =
      [(3, 1), (3, 2), (5, 3), (5, 4), (4, 2), (1, 1), (1, 1)] ∧
    reports .stlBuild base [transport 5 0x505 12 16, transport 5 0x507 12 16, transport 4 0x500 12 0,
        transport 4097 0x500 12 0] =
      [(3, 3), (5, 5), (1, 1), (5, 3)] ∧
    Memory.wf (withKey (base.memWrite 32 payload)).buf := by decide +kernel

/-- 2.2: LTL_BUILD in mode 5, with its address in the operands. -/
theorem test_ltlBuild :
    let t := run .ltlBuild (transport 13 0x01020505 12 16) (withKey (base.memWrite 32 payload))
    t.memRead 0 13 = [0x72, 0x78, 0x56, 0x34, 0x12, 0x70, 0x16, 0x01, 0x07, 5, 0, 0x10, 0xA5] ∧
      t.memRead 32 16 = ciphertext ∧ t.v = ⟨13, 16, 0xA510, 1, 0, 0, 0, 0⟩ := by decide +kernel

/-- LTL_BUILD in mode 0, and its failures: a header capacity of 12, mode 7, no key. -/
theorem test_ltlBuild_clauses :
    reports .ltlBuild base [transport 13 0x01020500 10 0, transport 12 0x500 10 0, transport 13 0x507 1 16,
        transport 13 0x505 1 16, transport 13 0x505 0 16] =
      [(0, 0), (1, 1), (5, 5), (3, 3), (3, 2)] := by decide +kernel

/-- 2.2: STL_PARSE of the header in mode 5, and its failures: `avail` 4, a range past the end, mode 7,
`plen` 17. -/
theorem test_stlParse :
    (let s := base.memWrite 0 [0x7A, 5, 0, 0x10, 0xA5, 0x7A, 5, 0, 0x10, 0xA7]
    (run .stlParse { r1 := 5, r2 := 16 } s).v = ⟨0x7A, 5, 0, 0xA510, 0, 0, 0, 0⟩ ∧
      reports .stlParse s [{ r1 := 4 }, { r0 := 4092, r1 := 5 }, { r0 := 5, r1 := 5 },
        { r1 := 5, r2 := 17 }, { r1 := 5, r2 := 1 }] = [(5, 8), (5, 3), (5, 5), (4, 2), (0, 0)]) := by
  decide +kernel

/-- 2.2: LTL_PARSE of the header in mode 5, and its failures. -/
theorem test_ltlParse :
    (let s := base.memWrite 0 [0x72, 0x78, 0x56, 0x34, 0x12, 0x70, 0x16, 0x01, 0x07, 5, 0, 0x10, 0xA5]
    (run .ltlParse { r1 := 13, r2 := 16 } s).v = ⟨0x72, 5, 0, 0xA510, 0x12345678, 0x1670, 1, 7⟩ ∧
      reports .ltlParse s [{ r1 := 12 }, { r0 := 4084, r1 := 13 }, { r1 := 13, r2 := 17 }] =
        [(5, 8), (5, 3), (4, 2)]) := by decide +kernel

/-! ### CRC Engine -/

/-- 2.3: the trace's `01`, the catalogue's check value, and the DLL header. -/
theorem test_crc16 :
    ([[0x01], [0x31, 0x32, 0x33, 0x34, 0x35, 0x36, 0x37, 0x38, 0x39],
      [0x1E, 0x44, 0x70, 0x16, 0x78, 0x56, 0x34, 0x12, 0x01, 0x07]].map fun x : List Byte =>
        (run .crc16 { r0 := 16, r1 := BitVec.ofNat 32 x.length } (base.memWrite 16 x)).v.r0.toNat) =
      [0xC29A, 0xC2B7, 0xA8E7] := by decide +kernel

/-- 2.3: CRC16 4090, 10 is out of range; CRC16 NULL, 0 is not. -/
theorem test_crc16_clauses :
    reports .crc16 base [{ r0 := 4090, r1 := 10 }, { r0 := 0xFFFFFFFF, r1 := 1 },
      { r0 := 0xFFFFFFFF, r1 := 0 }] = [(5, 3), (5, 3), (0, 0)] := by decide +kernel

/-- CrcTellsOneByteApart, WithCrcLayout and EncodedStreamHoldsTheCodes: two bytes that differ; frames of
one, eleven and 256 bytes. -/
theorem test_crc_hypotheses :
    (0x00#8 ≠ 0x01#8) ∧ 1 ≤ [0x12#8].length ∧ (List.replicate 256 0x00#8).length ≤ 256 ∧ withCrc [0x12] = [0x12, 0x14, 0xCA] ∧
      withCrc [1, 2, 3, 4, 5, 6, 7, 8, 9, 10, 11] =
        [1, 2, 3, 4, 5, 6, 7, 8, 9, 10, 0xE9, 0xCF, 11, 0x6E, 0x1D] := by decide +kernel

/-! ### PHY -/

/-- 2.4: PHY_ENCODE of `12` (an odd number of coded bytes) and of `12 34` (an even number). -/
theorem test_phyEncode :
    (let t := run .phyEncode ⟨0, 1, 16, 5, 0, 0, 0, 0⟩ (inTMeter (base.memWrite 0 [0x12]))
    t.memRead 16 5 = [0x34, 0xE3, 0x5C, 0xD2, 0x65] ∧ t.v = ⟨5, 16, 1, 0, 0, 0, 0, 0⟩) ∧
    (run .phyEncode ⟨0, 2, 16, 7, 0, 0, 0, 0⟩ (inTMeter (base.memWrite 0 [0x12, 0x34]))).memRead 16 7 =
      [0x34, 0xE2, 0xDC, 0x4E, 0xC3, 0xB4, 0x55] := by decide +kernel

/-- 2.4: PhyEncodeWritesEncodedFrame: before any SET_MODE; in `MODE` C; and in T-Meter each failure at
the edge of its range. -/
theorem test_phyEncode_clauses :
    reports .phyEncode base [{ r1 := 1 }] = [(5, 7)] ∧
    (run .phyEncode ⟨0x200, 31, 0x300, 0, 0, 0, 0, 0⟩ (base.setMode 3#4)).v =
      ⟨31, 0x200, 0, 0, 0, 0, 0, 0⟩ ∧
    reports .phyEncode (inTMeter base) [{ r1 := 0 }, { r1 := 257 }, ⟨4096, 1, 0, 5, 0, 0, 0, 0⟩,
        ⟨0, 1, 4092, 5, 0, 0, 0, 0⟩, ⟨4, 1, 0, 5, 0, 0, 0, 0⟩, ⟨0, 1, 16, 4, 0, 0, 0, 0⟩] =
      [(5, 8), (5, 8), (5, 3), (5, 3), (5, 4), (1, 1)] ∧ Memory.wf base.buf := by decide +kernel

/-- A state about to decode the five encoded bytes `e`, ready for a frame of one byte. -/
def decoding (e : List Byte) : State :=
  { inTMeter (base.memWrite 0 e) with a := ⟨0, 5, 16, 1, 0, 0, 0, 0⟩ }

/-- 2.4: PHY_DECODE of the encoded `00`, with its postamble changed, with its first bit flipped, and with
its first code replaced. -/
theorem test_phyDecode :
    ([[0x59, 0x6A, 0x69, 0xA6, 0x9A], [0x59, 0x6A, 0x69, 0xA6, 0x95], [0xD9, 0x6A, 0x69, 0xA6, 0x9A],
      [0x35, 0x6A, 0x69, 0xA6, 0x9A]].map fun e =>
        let t := after (exec .phyDecode (decoding e)); (t.status.toNat, t.errinfo.toNat, t.v)) =
      [(0, 0, ⟨1, 16, 1, 0, 0, 0, 0, 0⟩), (0, 0, ⟨1, 16, 1, 0, 0, 0, 0, 0⟩), (2, 1, {}), (2, 2, {})] ∧
    (after (exec .phyDecode (decoding [0x59, 0x6A, 0x69, 0xA6, 0x9A]))).memRead 16 1 = [0x00] := by
  decide +kernel

/-- 2.4: PhyDecodeChecksBeforeData: before any SET_MODE, in `MODE` C, and in T-Meter each failure. -/
theorem test_phyDecode_clauses :
    reports .phyDecode base [{ r1 := 5 }] = [(5, 7)] ∧
    (run .phyDecode ⟨0x200, 31, 0x300, 0, 0, 0, 0, 0⟩ (base.setMode 3#4)).v =
      ⟨31, 0x200, 0, 0, 0, 0, 0, 0⟩ ∧
    reports .phyDecode (inTMeter base) [⟨4092, 5, 0, 1, 0, 0, 0, 0⟩, ⟨0, 5, 4, 1, 0, 0, 0, 0⟩,
        ⟨0, 6, 16, 1, 0, 0, 0, 0⟩, ⟨0, 437, 1000, 300, 0, 0, 0, 0⟩, ⟨0, 5, 16, 0, 0, 0, 0, 0⟩] =
      [(5, 3), (5, 4), (2, 3), (2, 3), (1, 1)] := by decide +kernel

/-- PhyDecodeRecoversFrame and PhyDecodeSalvagesVerifiedBlocks: the encoded `00` meets their
hypotheses. -/
theorem test_phyDecode_ready :
    let s := decoding [0x59, 0x6A, 0x69, 0xA6, 0x9A]
    Memory.wf s.buf ∧ PhyDecodeReady s [0x00#8].length ∧
      (encodedBits s).take (12 * (withCrc [0x00]).length) = codeStream (withCrc [0x00]) := by
  unfold PhyDecodeReady; decide +kernel

/-- A state about to decode the 23 encoded bytes of the frame `01 02 .. 0B` of 2.4, whose second block starts
at its byte 18, with that byte and the next replaced by `x` and `y`. -/
def decodingEleven (x y : Byte) : State :=
  { inTMeter (base.memWrite 0 [0x58, 0xD5, 0x8E, 0x58, 0xB5, 0x9C, 0x59, 0x95, 0x9A, 0x59, 0x35, 0xAC, 0x5A, 0x55,
      0xA6, 0xCA, 0x5D, 0x29, x, y, 0xB2, 0x37, 0x1A]) with a := ⟨0, 23, 32, 11, 0, 0, 0, 0⟩ }

/-- PhyDecodeSalvagesVerifiedBlocks with the first bad block 1: an invalid code in it (`DA` for `5A`), then a
valid code that is not the block's (nibble 1 for 0): the codes stand for `1B 6E 1D`, whose CRC differs. Each time
the ten bytes of block 0 are stored. -/
theorem test_phyDecode_second_block :
    PhyDecodeReady (decodingEleven 0xDA 0x36) 11 ∧ PhyDecodeReady (decodingEleven 0x36 0x36) 11 ∧
    ([decodingEleven 0x5A 0x36, decodingEleven 0xDA 0x36, decodingEleven 0x36 0x36].map fun s =>
      let t := after (exec .phyDecode s); (t.status.toNat, t.errinfo.toNat, t.v, t.memRead 32 10)) =
      [(0, 0, ⟨11, 32, 2, 0, 0, 0, 0, 0⟩, [1, 2, 3, 4, 5, 6, 7, 8, 9, 10]),
        (2, 0x101, ⟨10, 0, 1, 0, 0, 0, 0, 0⟩, [1, 2, 3, 4, 5, 6, 7, 8, 9, 10]),
        (2, 0x102, ⟨10, 0, 1, 0, 0, 0, 0, 0⟩, [1, 2, 3, 4, 5, 6, 7, 8, 9, 10])] ∧
    inv3of6 (streamCode (encodedBits (decodingEleven 0xDA 0x36)) 24) = none ∧
    ((encodedBits (decodingEleven 0x36 0x36)).drop 144).take 36 = codeStream [0x1B, 0x6E, 0x1D] ∧
    (crc16 [0x1B]).toNat ≠ 0x6E1D := by
  unfold PhyDecodeReady; decide +kernel

/-- SingleBitFlipDetected at the first and the last code bit of the encoded `00`. -/
theorem test_single_flip_hypotheses :
    PhyDecodeReady (decoding [0xD9, 0x6A, 0x69, 0xA6, 0x9A]) [0x00#8].length ∧
    (encodedBits (decoding [0xD9, 0x6A, 0x69, 0xA6, 0x9A])).take (12 * (withCrc [0x00]).length) =
      (codeStream (withCrc [0x00])).modify 0 (fun b => !b) ∧
    35 < 12 * (withCrc [0x00]).length ∧
    (encodedBits (decoding [0x59, 0x6A, 0x69, 0xA6, 0x8A])).take (12 * (withCrc [0x00]).length) =
      (codeStream (withCrc [0x00])).modify 35 (fun b => !b) := by
  unfold PhyDecodeReady; decide +kernel

/-- CodeReplacementDetected at the first code (nibble 1 for 0) and the last (nibble 0 for F) of the
encoded `00`. -/
theorem test_code_replacement_hypotheses :
    PhyDecodeReady (decoding [0x35, 0x6A, 0x69, 0xA6, 0x9A]) [0x00#8].length ∧
    t3of6 1#4 ≠ streamCode (codeStream (withCrc [0x00])) 0 ∧
    (encodedBits (decoding [0x35, 0x6A, 0x69, 0xA6, 0x9A])).take (12 * (withCrc [0x00]).length) =
      (codeStream (withCrc [0x00])).take 0 ++ msbFirst 6 (t3of6 1#4) ++
        (codeStream (withCrc [0x00])).drop 6 ∧
    5 < 2 * (withCrc [0x00]).length ∧ t3of6 0#4 ≠ streamCode (codeStream (withCrc [0x00])) 5 ∧
    (encodedBits (decoding [0x59, 0x6A, 0x69, 0xA5, 0x6A])).take (12 * (withCrc [0x00]).length) =
      (codeStream (withCrc [0x00])).take 30 ++ msbFirst 6 (t3of6 0#4) ++
        (codeStream (withCrc [0x00])).drop 36 := by
  unfold PhyDecodeReady; decide +kernel

/-- PhyRoundTrip: PHY_ENCODE of `12`, then PHY_DECODE of its five bytes at another place. -/
theorem test_phy_round_trip_hypotheses :
    let s := { inTMeter (base.memWrite 0 [0x12]) with a := ⟨0, 1, 16, 5, 0, 0, 0, 0⟩ }
    let t := after (exec .phyEncode s)
    Memory.wf s.buf ∧ s.mode = 1#4 ∧ t.status = 0#32 ∧ t.v.r0 = 5#32 ∧ t.inBuf 32 1 = true ∧
      overlap 16 5 32 1 = false ∧ s.a.r1.toNat ≤ 1 ∧
      (run .phyDecode ⟨16, 5, 32, 1, 0, 0, 0, 0⟩ t).memRead 32 1 = [0x12] := by decide +kernel

/-! ### Security Layer -/

/-- 2.5: SET_KEY with K0 at 0x100. -/
theorem test_setKey :
    let t := run .setKey { r0 := 0x100, r1 := 16 } (base.memWrite 0x100 keyK0.toBytes)
    t.key = keyK0 ∧ t.keystat = 1#32 := by decide +kernel

/-- 2.5: SetKeyLoadsTheKey and GetKeyWritesTheKey, each failure at the edge of its range. -/
theorem test_key_clauses :
    reports .setKey base [{ r0 := 0xFFFFFFFF, r1 := 0 }, { r0 := 0x100 }, { r0 := 0x100, r1 := 15 },
        { r0 := 4081, r1 := 16 }, { r0 := 4080, r1 := 16 }] =
      [(3, 1), (3, 2), (3, 4), (5, 3), (0, 0)] ∧
    reports .getKey (withKey base) [{ r0 := 0xFFFFFFFF }, { r0 := 0x200 }, { r0 := 4082, r1 := 15 },
        { r0 := 0x200, r1 := 15 }, { r0 := 4080, r1 := 16 }] =
      [(3, 1), (3, 2), (5, 3), (1, 1), (0, 0)] ∧
    reports .getKey base [{ r0 := 0x200, r1 := 16 }] = [(3, 3)] := by decide +kernel

/-- 2.5: GET_KEY after SET_KEY. -/
theorem test_getKey :
    let t := run .getKey { r0 := 0x200, r1 := 16 } (withKey base)
    t.memRead 0x200 16 = [0, 1, 2, 3, 4, 5, 6, 7, 8, 9, 10, 11, 12, 13, 14, 15] ∧
      t.v = { r0 := 16 } := by decide +kernel

/-- IV5 of spec/95_test_vectors.md. -/
def iv5 : List Byte := [0x70, 0x16, 0x78, 0x56, 0x34, 0x12, 0x01, 0x07, 5, 5, 5, 5, 5, 5, 5, 5]

/-- 2.5: DERIVE_IV with access number 0x105, of which only the low byte counts. -/
theorem test_deriveIv :
    (run .deriveIv ⟨0x500, 16, 0x1670, 0x12345678, 0x0701, 0x105, 0, 0⟩ base).memRead 0x500 16 = iv5 := by
  decide +kernel

/-- DeriveIvWritesTheIv, each failure at the edge of its range. -/
theorem test_deriveIv_clauses :
    reports .deriveIv base [{ r0 := 0xFFFFFFFF }, { r0 := 0x500 }, { r0 := 4081, r1 := 16 },
      { r0 := 0x500, r1 := 15 }] = [(3, 1), (3, 2), (5, 3), (1, 1)] := by decide +kernel

/-- R188: FIPS-197 C.1, and its inverse. -/
theorem test_aes_known_answer :
    aesEnc keyK0 (Block.ofBytes [0x00, 0x11, 0x22, 0x33, 0x44, 0x55, 0x66, 0x77, 0x88, 0x99, 0xAA, 0xBB, 0xCC,
      0xDD, 0xEE, 0xFF]) = Block.ofBytes [0x69, 0xC4, 0xE0, 0xD8, 0x6A, 0x7B, 0x04, 0x30, 0xD8, 0xCD, 0xB7,
      0x80, 0x70, 0xB4, 0xC5, 0x5A] ∧
    aesDec keyK0 (Block.ofBytes [0x69, 0xC4, 0xE0, 0xD8, 0x6A, 0x7B, 0x04, 0x30, 0xD8, 0xCD, 0xB7, 0x80, 0x70,
      0xB4, 0xC5, 0x5A]) = Block.ofBytes [0x00, 0x11, 0x22, 0x33, 0x44, 0x55, 0x66, 0x77, 0x88, 0x99, 0xAA,
      0xBB, 0xCC, 0xDD, 0xEE, 0xFF] := by decide +kernel

/-- K0 set, IV5 at 0x500 and the payload of 2.5 at 0x600. -/
def cryptBase : State := withKey ((base.memWrite 0x500 iv5).memWrite 0x600 payload)

/-- 2.5: the payload encrypted in place. -/
theorem test_encrypt :
    let t := run .encrypt ⟨0x600, 12, 0x600, 16, 0x500, 16, 0, 0⟩ cryptBase
    t.memRead 0x600 16 = ciphertext ∧ t.v = { r0 := 16, r1 := 1 } := by decide +kernel

/-- 2.5, EncryptWritesTheCiphertext and DecryptWritesThePlaintext, their chaining: the two blocks of
`30 31 .. 40` under K0 and IV5, and back. -/
theorem test_cbc_two_blocks :
    let q : List Byte := [0x30, 0x31, 0x32, 0x33, 0x34, 0x35, 0x36, 0x37, 0x38, 0x39, 0x3A, 0x3B, 0x3C, 0x3D, 0x3E,
      0x3F, 0x40] ++ List.replicate 15 0x2F
    let c : List Byte := [0x10, 0xD3, 0xFB, 0x96, 0x03, 0x5D, 0xD9, 0x2C, 0xEE, 0x8D, 0x2D, 0x25, 0x67, 0xA3, 0x10,
      0xD9, 0x6F, 0x9B, 0x1B, 0x58, 0x6C, 0xDA, 0xBB, 0xC7, 0xA3, 0x8F, 0xC7, 0xA6, 0xB2, 0x0C, 0xB9, 0xAE]
    cbcEncrypt keyK0 iv5 q = c ∧ cbcDecrypt keyK0 iv5 c = q ∧ q.length % 16 = 0 ∧ 16 * (0 + 2) ≤ q.length := by
  decide +kernel

/-- 2.5: EncryptWritesTheCiphertext, each failure at the edge of its range, in the order of the checks. -/
theorem test_encrypt_clauses :
    reports .encrypt cryptBase [⟨0x600, 12, 0x600, 16, 0xFFFFFFFF, 16, 0, 0⟩,
        ⟨0x600, 12, 0x600, 0, 0x500, 16, 0, 0⟩, ⟨0x600, 12, 0x600, 16, 0x500, 15, 0, 0⟩,
        ⟨0x600, 17, 0x600, 32, 0x500, 16, 1, 0⟩, ⟨0x600, 12, 4081, 16, 0x500, 16, 0, 0⟩,
        ⟨0x600, 12, 0x604, 16, 0x500, 16, 0, 0⟩, ⟨0x600, 12, 0x4F1, 16, 0x500, 16, 0, 0⟩,
        ⟨0x600, 12, 0x600, 15, 0x500, 16, 0, 0⟩] =
      [(3, 1), (3, 2), (3, 4), (3, 5), (5, 3), (5, 4), (5, 4), (1, 1)] ∧
    reports .encrypt base [⟨0x600, 12, 0x600, 16, 0x500, 16, 0, 0⟩] = [(3, 3)] ∧
    Memory.wf cryptBase.buf := by decide +kernel

/-- 2.5, Mode5RoundTrip: DECRYPT in place of what ENCRYPT wrote gives the padded payload. -/
theorem test_decrypt :
    let t := run .encrypt ⟨0x600, 12, 0x700, 16, 0x500, 16, 0, 0⟩ cryptBase
    Memory.wf cryptBase.buf ∧ t.status = 0#32 ∧ t.v.r0 = 16#32 ∧ t.memRead 0x500 16 = cryptBase.memRead 0x500 16 ∧
      t.inBuf 0x700 16 = true ∧ t.inBuf 0x500 16 = true ∧ overlap 0x500 16 0x700 16 = false ∧
      (run .decrypt ⟨0x700, 16, 0x700, 16, 0x500, 16, 0, 0⟩ t).memRead 0x700 16 =
        payload ++ [0x2F, 0x2F, 0x2F, 0x2F] := by decide +kernel

/-- 2.5: DecryptWritesThePlaintext, each failure at the edge of its range, in the order of the checks. -/
theorem test_decrypt_clauses :
    reports .decrypt cryptBase [⟨0x600, 32, 0x600, 32, 0xFFFFFFFF, 16, 0, 0⟩,
        ⟨0x600, 0, 0x600, 16, 0x500, 16, 0, 0⟩, ⟨0x600, 17, 0x600, 32, 0x500, 16, 0, 0⟩,
        ⟨0x600, 32, 0x600, 32, 0x500, 8, 0, 0⟩, ⟨4081, 16, 0x600, 32, 0x500, 16, 0, 0⟩,
        ⟨0x600, 16, 0x604, 16, 0x500, 16, 0, 0⟩, ⟨0x600, 32, 0x600, 31, 0x500, 16, 0, 0⟩] =
      [(3, 1), (3, 2), (3, 4), (3, 4), (5, 3), (5, 4), (1, 1)] ∧
    reports .decrypt base [⟨0x600, 16, 0x600, 16, 0x500, 16, 0, 0⟩] = [(3, 3)] := by decide +kernel

/-! ### Frame Assembler -/

/-- 2.6: PUT_RECORD of lengths 4, 2 and 1. -/
theorem test_putRecord :
    (run .putRecord ⟨0, 6, 0x1304, 12345, 0, 0, 0, 0⟩ base).memRead 0 6 = [0x04, 0x13, 0x39, 0x30, 0, 0] ∧
    (run .putRecord ⟨0, 4, 0x3B02, 0x12345678, 0, 0, 0, 0⟩ base).memRead 0 4 = [0x02, 0x3B, 0x78, 0x56] ∧
    (run .putRecord ⟨0, 3, 0x1311, 0xFFFFFFFE, 0, 0, 0, 0⟩ base).memRead 0 3 = [0x11, 0x13, 0xFE] := by
  decide +kernel

/-- 2.6: PutRecordWritesTheRecord: length code 3, a range past the end, a capacity one short; and its
condition at each supported length code. -/
theorem test_putRecord_clauses :
    reports .putRecord base [⟨0, 8, 0x1303, 1, 0, 0, 0, 0⟩, ⟨4091, 6, 0x1304, 1, 0, 0, 0, 0⟩,
        ⟨0, 5, 0x1304, 1, 0, 0, 0, 0⟩, ⟨4090, 6, 0x1304, 1, 0, 0, 0, 0⟩, ⟨4092, 4, 0x1302, 1, 0, 0, 0, 0⟩,
        ⟨4093, 3, 0x1301, 1, 0, 0, 0, 0⟩] =
      [(5, 6), (5, 3), (1, 1), (0, 0), (0, 0), (0, 0)] := by decide +kernel

/-- 2.6: GET_RECORD past fillers, of a negative 16-bit and a negative 8-bit value, and of fillers only. -/
theorem test_getRecord :
    ([[0x2F, 0x2F, 0x04, 0x13, 0x39, 0x30, 0, 0], [0x02, 0x3B, 0xFE, 0xFF], [0x01, 0x13, 0x80],
      [0x2F, 0x2F]].map fun x : List Byte =>
        (run .getRecord { r0 := 8, r1 := BitVec.ofNat 32 x.length } (base.memWrite 8 x)).v) =
      [⟨8, 1, 4, 0x13, 12345, 2, 0, 4⟩, ⟨4, 1, 2, 0x3B, 0xFFFFFFFE, 0, 0, 2⟩,
        ⟨3, 1, 1, 0x13, 0xFFFFFF80, 0, 0, 1⟩, { r0 := 2, r5 := 2 }] := by decide +kernel

/-- 2.6: GetRecordReturnsTheRecord: nothing available, a range past the end, DIF bits 7 and 6, length
code 3, a record one byte short. -/
theorem test_getRecord_clauses :
    ([[], [0x84, 0x13], [0x40, 0x13], [0x03, 0x13, 0], [0x04, 0x13, 0x39, 0x30, 0]].map
      fun x : List Byte =>
        let t := run .getRecord { r0 := 8, r1 := BitVec.ofNat 32 x.length } (base.memWrite 8 x)
        (t.status.toNat, t.errinfo.toNat)) = [(5, 8), (5, 6), (5, 6), (5, 6), (5, 8)] ∧
    reports .getRecord base [{ r0 := 4096, r1 := 1 }] = [(5, 3)] := by decide +kernel

/-- 2.6: BUILD_METER_FRAME encrypted, and in clear with negative values. -/
theorem test_buildMeterFrame :
    (let t := run .buildMeterFrame ⟨0, 64, 0x30205, 12345, 123, 0, 0, 0⟩ (withKey base)
    t.memRead 0 31 = [0x1E, 0x44, 0x70, 0x16, 0x78, 0x56, 0x34, 0x12, 0x01, 0x07, 0x7A, 0x05, 0x00, 0x10,
      0xA5] ++ ciphertext ∧ t.v = ⟨31, 30, 0xA510, 1, 12, 16, 0, 0⟩) ∧
    (let t := run .buildMeterFrame ⟨0, 25, 0x003FF, 0xFFFFFFFF, 0xFFFE, 0, 0, 0⟩ base
    t.memRead 0 25 = [0x18, 0x44, 0x70, 0x16, 0x78, 0x56, 0x34, 0x12, 0x01, 0x07, 0x7A, 0xFF, 0x00, 0x00,
      0xC0, 0x04, 0x13, 0xFF, 0xFF, 0xFF, 0xFF, 0x02, 0x3B, 0xFE, 0xFF] ∧
      t.v = ⟨25, 24, 0xC000, 0, 10, 10, 0, 0⟩) := by decide +kernel

/-- 2.6: BuildMeterFrameWritesTheFrame: no key, a range past the end, capacities one short; and
MeterFrameEqualsCommandSequence's hypotheses in both forms. -/
theorem test_buildMeterFrame_clauses :
    reports .buildMeterFrame base [⟨0, 64, 0x30205, 0, 0, 0, 0, 0⟩, ⟨4072, 25, 0x10205, 0, 0, 0, 0, 0⟩,
        ⟨0, 24, 0x10205, 0, 0, 0, 0, 0⟩, ⟨4071, 25, 0x10205, 0, 0, 0, 0, 0⟩] =
      [(3, 3), (5, 3), (1, 1), (0, 0)] ∧
    reports .buildMeterFrame (withKey base) [⟨0, 30, 0x30205, 0, 0, 0, 0, 0⟩,
      ⟨4065, 31, 0x30205, 0, 0, 0, 0, 0⟩] = [(1, 1), (0, 0)] := by decide +kernel

/-- MeterFrameEqualsCommandSequence: the invariant of the states its frames are built in. -/
theorem test_meter_invariant :
    State.Inv { withKey base with a := ⟨4065, 31, 0x30205, 0, 0, 0, 0, 0⟩ } := by
  unfold State.Inv ParamsLegal ReportLegal
  exact ⟨by decide +kernel, by decide +kernel, by decide +kernel, by decide +kernel, by decide +kernel⟩

/-! ### Timing model -/

/-- 2.7: ACCESS_WINDOW in the modes the source gives, and the parameters in S and N-19.2k. -/
theorem test_accessWindow :
    ([(1, 0), (2, 1), (3, 0), (4, 1)].map fun p =>
      let t := run .accessWindow { r0 := BitVec.ofNat 32 p.1, r2 := BitVec.ofNat 32 p.2 } base
      (t.v.r0.toNat, t.v.r1.toNat)) =
      [(2000, 3000), (2000, 3000), (99500, 100500), (999500, 1000500)] ∧
    (run .accessWindow { r0 := 8, r2 := 1 } base).v.r0 = Config.awStart 8#4 true := ⟨by decide +kernel, rfl⟩

/-- 2.7: AccessWindowLooksUpTheTable: codes 8 and 9. -/
theorem test_accessWindow_clauses :
    reports .accessWindow base [{ r0 := 8 }, { r0 := 9 }] = [(0, 0), (5, 2)] := by decide +kernel

/-- 2.7: ACCESS_DELAY for a period of ten seconds at both ends, around 128, and past 32 bits. -/
theorem test_accessDelay :
    ([0, 127, 128, 129, 255].map fun n =>
      (run .accessDelay { r0 := BitVec.ofNat 32 n, r1 := 10000000 } base).v.r0.toNat) =
      [10312500, 9692382, 9687500, 9692382, 10307617] ∧
    (run .accessDelay { r0 := 0, r1 := 0xFFFFFFFF } base).v.r1 = 1#32 := by decide +kernel

end Sys2Proof.Tests
end

/-! The invariant (R7, R24, R25, R27, R29, R30, R222): it holds at reset, each operation on the state keeps
it, and so does every step. -/

namespace Sys2Proof.Machine

/-! ### The parameters -/

/-- The three letters stand in `DEV_MFR` as a number to the base 32, without overflow (R29, R100). -/
theorem devMfr_toNat :
    Config.devMfr.toNat = ((Config.devLetter 0).val + 1) * 1024 + ((Config.devLetter 1).val + 1) * 32 +
      ((Config.devLetter 2).val + 1) := by
  unfold Config.devMfr
  generalize Config.devLetter 0 = x
  generalize Config.devLetter 1 = y
  generalize Config.devLetter 2 = z
  rw [BitVec.toNat_ofNat]
  omega

/-- The configured parameters are legal (R7, R29). -/
theorem paramsLegal_reset : ParamsLegal State.reset := by
  have hsize : State.reset.bufSize = 1024 + Config.bufSizeAbove.val := rfl
  have habove := Config.bufSizeAbove.isLt
  have hmfr : State.reset.dev.mfr.toNat = _ := devMfr_toNat
  refine ⟨by omega, by omega, by omega, fun k => ?_⟩
  fin_cases k <;> simp only [hmfr] <;> omega

/-! ### The report -/

@[simp] theorem statusWord_toNat (st : Status) : (statusWord st).toNat = st.code.toNat := by
  rw [statusWord, BitVec.toNat_setWidth]
  omega

/-- `ERRINFO` as a number: the index above the eight bits of the cause (R25). -/
@[simp] theorem errinfoWord_toNat (c : BitVec 8) (i : BitVec 16) :
    (errinfoWord c i).toNat = 256 * i.toNat + c.toNat := by
  simp only [errinfoWord, BitVec.toNat_append, BitVec.toNat_ofNat]
  rw [← Nat.shiftLeft_add_eq_or_of_lt c.isLt]
  simp [Nat.shiftLeft_eq, Nat.mul_comm]

/-- Each failure is a row of R222. -/
theorem Failure.status_cause_mem (f : Failure) : (f.status.code.toNat, f.cause.toNat) ∈ statusCauses := by
  cases f <;> simp [Failure.status, Failure.cause, Status.code, statusCauses]

/-- Only InvalidFraming with cause 1 or 2 carries a block index (R25, R222). -/
theorem Failure.index_eq_zero_or_framing (f : Failure) :
    f.index = 0#16 ∨ f.status = .invalidFraming ∧ f.cause.toNat ≤ 2 := by
  cases f with
  | invalidCode b => exact .inr ⟨rfl, by simp [Failure.cause]⟩
  | crcMismatch b => exact .inr ⟨rfl, by simp [Failure.cause]⟩
  | _ => exact .inl rfl

/-- What a failure reports is legal, whatever its results. -/
theorem reportLegal_raise (s : State) (f : Failure) (v : Bank) : ReportLegal (s.raise f v) := by
  have hlow : f.errinfo.toNat % 256 = f.cause.toNat := by
    rw [Failure.errinfo, errinfoWord_toNat]; omega
  refine .inr ⟨?_, ?_, fun hindex => ?_⟩
  · simpa [hlow] using f.status_cause_mem
  · simp only [State.raise_errinfo, Failure.errinfo, errinfoWord_toNat]; omega
  · rcases f.index_eq_zero_or_framing with h0 | ⟨hst, hcause⟩
    · simp only [State.raise_errinfo, Failure.errinfo, errinfoWord_toNat, h0, BitVec.toNat_ofNat] at hindex
      omega
    · exact ⟨by rw [State.raise_status, hst]; rfl, hlow ▸ hcause⟩

/-- What a success reports is legal. -/
theorem reportLegal_done (s : State) (v : Bank) : ReportLegal (s.done v) := .inl ⟨rfl, rfl⟩

/-! ### Each operation on the state keeps the invariant -/

theorem State.reset_inv : State.reset.Inv :=
  ⟨paramsLegal_reset, State.reset_buf_wf, fun _ h => absurd h List.not_mem_nil, Nat.zero_le 8,
    .inl ⟨rfl, rfl⟩⟩

section
variable {s : State}

theorem State.Inv.raise (hs : s.Inv) (f : Failure) (v : Bank) : (s.raise f v).Inv := by
  obtain ⟨hparams, hwf, hbound, hmode, -⟩ := hs
  exact ⟨hparams, hwf, hbound, hmode, reportLegal_raise s f v⟩

theorem State.Inv.done (hs : s.Inv) (v : Bank) : (s.done v).Inv := by
  obtain ⟨hparams, hwf, hbound, hmode, -⟩ := hs
  exact ⟨hparams, hwf, hbound, hmode, reportLegal_done s v⟩

theorem State.Inv.memWrite (hs : s.Inv) {p : Nat} {x : List Byte} (hx : FitsBuf s p x) :
    (s.memWrite p x).Inv := by
  obtain ⟨hparams, hwf, hbound, hmode, hreport⟩ := hs
  refine ⟨hparams, s.memWrite_wf p x hwf, fun c hc => ?_, hmode, hreport⟩
  rcases mem_memWriteBytes s.buf p x c hc with hold | ⟨hlow, hhigh⟩
  · exact hbound c hold
  · rcases hx with rfl | hfit
    · simp only [List.length_nil] at hhigh; omega
    · exact lt_of_lt_of_le hhigh hfit

theorem State.Inv.setMode (hs : s.Inv) {m : BitVec 4} (hm : m.toNat ≤ 8) : (s.setMode m).Inv := by
  obtain ⟨hparams, hwf, hbound, -, hreport⟩ := hs
  exact ⟨hparams, hwf, hbound, hm, hreport⟩

/-- The key is no part of the invariant. -/
theorem State.Inv.setKey (hs : s.Inv) (k : Block) : (s.setKey k).Inv := hs

/-- `CMD` is no part of the invariant. -/
theorem State.Inv.withCmd (hs : s.Inv) (w : Word) : State.Inv { s with cmd := w } := hs

/-- What is still to arrive is no part of the invariant. -/
theorem State.Inv.withInputs (hs : s.Inv) (es : List Event) : State.Inv { s with inputs := es } := hs

/-- The reset event restores the values of reset and keeps the parameters (R250). -/
theorem State.Inv.resetEvent (hs : s.Inv) : s.resetEvent.Inv := by
  obtain ⟨hparams, -, -, -, -⟩ := hs
  exact ⟨hparams, State.reset_buf_wf, fun _ h => absurd h List.not_mem_nil, Nat.zero_le 8,
    .inl ⟨rfl, rfl⟩⟩

/-! ### The HOST's accesses -/

/-- A HOST access to the buffer window that is a move lies inside `BUF` (R51; I11b). -/
theorem accessProblem_eq_none_window {offset : Nat} {size : AccessSize}
    (h : accessProblem s offset size = none) (hwindow : windowBase ≤ offset) :
    offset - windowBase + size.bytes ≤ s.bufSize := by
  unfold accessProblem at h
  rw [if_neg (Nat.not_lt.mpr hwindow)] at h
  by_contra hout
  rw [if_pos (by omega)] at h
  cases h

theorem State.Inv.busWrite (hs : s.Inv) {offset : Nat} {size : AccessSize} (value : Word)
    (h : accessProblem s offset size = none) : (s.busWrite offset size value).Inv := by
  unfold State.busWrite
  split
  · split <;> exact hs
  · rename_i hwindow
    have hfit := accessProblem_eq_none_window h (Nat.not_lt.mp hwindow)
    exact hs.memWrite (.inr (by simpa using hfit))

/-- An event that runs no command keeps the invariant. -/
theorem State.Inv.of_eventMove_plain (hs : s.Inv) {e : Event} {t : State} (h : eventMove s e = .plain t) :
    t.Inv := by
  cases e with
  | reset =>
    cases h
    exact hs.resetEvent
  | read offset size =>
    simp only [eventMove] at h
    split at h <;> cases h
    exact hs
  | write offset size value =>
    simp only [eventMove] at h
    split at h
    · cases h
    · rename_i hmove
      split at h <;> cases h
      exact hs.busWrite value hmove

/-! ### Commands -/

/-- Every shape of the end of a command keeps the invariant. -/
theorem State.Inv.of_commandEnd (hs : s.Inv) {i : Instr} {t : State} (h : CommandEnd i s t) : t.Inv := by
  cases h with
  | failed f => exact hs.raise f {}
  | finished v => exact hs.done v
  | stored p x v hx => exact (hs.memWrite hx).done v
  | storedTwo p q x y v hx hy => exact ((hs.memWrite hx).memWrite hy).done v
  | moded m hm => exact (hs.setMode hm).done {}
  | keyed k => exact (hs.setKey k).done {}
  | salvaged p x f v hx => exact (hs.memWrite hx).raise f v

/-- A command word, legal or not, keeps the invariant (R26, R73). -/
theorem State.Inv.of_issueCommand (hs : s.Inv) {w : Word} {t : State} (h : issueCommand s w = .next t) :
    t.Inv := by
  unfold issueCommand at h
  split at h
  · rename_i i _
    exact (hs.withCmd w).of_commandEnd (commandEnd_of_exec i _ t h)
  · cases h
    exact (hs.withCmd w).raise .illegalWord {}

/-! ### Steps -/

/-- Everything a step that goes on can do (R61, R251): nothing arrives, an event takes effect without a
command, or a command word is issued. -/
theorem step_cases {t : State} (h : step s = .next t) :
    (s.inputs = [] ∧ t = s) ∨
      ∃ e rest, s.inputs = e :: rest ∧
        (eventMove { s with inputs := rest } e = .plain t ∨
          ∃ w, eventMove { s with inputs := rest } e = .issue w ∧
            issueCommand { s with inputs := rest } w = .next t) := by
  unfold step at h
  split at h
  · rename_i hin
    cases h
    exact .inl ⟨hin, rfl⟩
  · rename_i e rest hin
    refine .inr ⟨e, rest, hin, ?_⟩
    split at h
    · cases h
    · rename_i hmove
      cases h
      exact .inl hmove
    · rename_i w hmove
      exact .inr ⟨w, hmove, h⟩

theorem State.Inv.of_step (hs : s.Inv) {t : State} (h : step s = .next t) : t.Inv := by
  rcases step_cases h with ⟨-, rfl⟩ | ⟨e, rest, -, hplain | ⟨w, -, hissue⟩⟩
  · exact hs
  · exact (hs.withInputs rest).of_eventMove_plain hplain
  · exact (hs.withInputs rest).of_issueCommand hissue

end

/-- Settles O7: the configured parameters are legal, nothing is stored, and the report is OK. -/
theorem invariantHoldsAtReset : Obligations.InvariantHoldsAtReset := State.reset_inv

/-- Settles O8, by the cases of what a step can do and, for a command, the shapes of its end. -/
theorem invariantKeptByEveryStep : Obligations.InvariantKeptByEveryStep :=
  fun _ _ hs h => hs.of_step h

end Sys2Proof.Machine

/-! Reset, the issue of a command, and what every command keeps of the configuration (R21, R26 to R29, R33,
R220, R251). -/

namespace Sys2Proof.Machine

section
variable {s t : State}

/-! ### What a step does -/

/-- With nothing to arrive the CORE is idle (R251; log entry 7). -/
theorem step_of_no_inputs (h : s.inputs = []) : step s = .next s := by
  simp only [step, h]

/-- A step whose event issues a command word executes that word (R61). -/
theorem step_of_issue {e : Event} {rest : List Event} {w : Word} (hin : s.inputs = e :: rest)
    (hmove : eventMove { s with inputs := rest } e = .issue w) :
    step s = issueCommand { s with inputs := rest } w := by
  simp only [step, hin, hmove]

/-- A 32-bit write to offset 0x000 is a move of the HOST in every state, and issues the word (R26). -/
theorem eventMove_write_cmd (s : State) (w : Word) : eventMove s (.write 0x000 .word w) = .issue w := rfl

/-- A legal word runs its command on the state in which `CMD` stores it (R26). -/
theorem issueCommand_of_decode {w : Word} {i : Instr} (h : decode w = .ok i) :
    issueCommand s w = exec i { s with cmd := w } := by
  simp only [issueCommand, h]

/-! ### The reset values -/

/-- Every register of a bank in which none is named is 0 (R22, R33). -/
theorem Bank.get_default (k : Fin 8) : ({} : Bank).get k = 0#32 := by
  fin_cases k <;> rfl

/-- `MODESTAT` reads 0 while `MODE` is invalid (R27). -/
theorem State.modestat_of_invalid (h : s.modeValid = false) : s.modestat = 0#32 := by
  simp [State.modestat, h]

/-- While nothing has been written since a reset, a byte reads as the free value of its address (R33; log
entry 2). -/
theorem State.readByte_of_unwritten (h : s.buf = []) (a : Nat) :
    s.readByte a = Config.bufContents s.epoch a := by
  simp only [State.readByte, h, memLookup]

/-! ### What each operation on the state keeps -/

theorem KeepsFixed.refl (s : State) : KeepsFixed s s := ⟨rfl, rfl, rfl, rfl, rfl, rfl, rfl⟩

theorem KeepsFixed.raise (h : KeepsFixed s t) (f : Failure) (v : Bank) : KeepsFixed s (t.raise f v) := h

theorem KeepsFixed.done (h : KeepsFixed s t) (v : Bank) : KeepsFixed s (t.done v) := h

theorem KeepsFixed.memWrite (h : KeepsFixed s t) (p : Nat) (x : List Byte) :
    KeepsFixed s (t.memWrite p x) := h

theorem KeepsFixed.setMode (h : KeepsFixed s t) (m : BitVec 4) : KeepsFixed s (t.setMode m) := h

theorem KeepsFixed.setKey (h : KeepsFixed s t) (k : Block) : KeepsFixed s (t.setKey k) := h

/-! ### What every shape of a command's end keeps -/

section
variable {i : Instr}

/-- No command changes the argument registers, `CMD`, the device address or the parameters (R21, R29,
R220). -/
theorem CommandEnd.keepsFixed (h : CommandEnd i s t) : KeepsFixed s t := by
  have hs := KeepsFixed.refl s
  cases h with
  | failed f => exact hs.raise f {}
  | finished v => exact hs.done v
  | stored p x v => exact (hs.memWrite p x).done v
  | storedTwo p q x y v => exact ((hs.memWrite p x).memWrite q y).done v
  | moded m => exact (hs.setMode m).done {}
  | keyed k => exact (hs.setKey k).done {}
  | salvaged p x f v => exact (hs.memWrite p x).raise f v

/-- Only SET_MODE touches `MODE` (R27). -/
theorem CommandEnd.keepsMode (h : CommandEnd i s t) (hi : i ≠ .setMode) :
    t.mode = s.mode ∧ t.modeValid = s.modeValid := by
  cases h with
  | moded m hm hmoded => exact absurd hmoded hi
  | _ => exact ⟨rfl, rfl⟩

/-- Only SET_KEY touches `KEY` (R28). -/
theorem CommandEnd.keepsKey (h : CommandEnd i s t) (hi : i ≠ .setKey) :
    t.key = s.key ∧ t.keyValid = s.keyValid := by
  cases h with
  | keyed k hkeyed => exact absurd hkeyed hi
  | _ => exact ⟨rfl, rfl⟩

/-- No command invalidates `MODE`: SET_MODE can only make it valid (R27). -/
theorem CommandEnd.modeValid (h : CommandEnd i s t) (hv : s.modeValid = true) : t.modeValid = true := by
  cases h with
  | moded => rfl
  | _ => exact hv

/-- No command invalidates `KEY`: SET_KEY can only make it valid (R28). -/
theorem CommandEnd.keyValid (h : CommandEnd i s t) (hv : s.keyValid = true) : t.keyValid = true := by
  cases h with
  | keyed => rfl
  | _ => exact hv

end

end

/-! ### Replacing an invalid key -/

/-- The state with `k` for the contents of `KEY` where these are invalid. -/
def State.rekey (s : State) (k : Block) : State := { s with key := if s.keyValid then s.key else k }

/-- In a machine with a key, `rekey` does nothing. -/
theorem State.rekey_of_valid {s : State} (hs : s.keyValid = true) (k : Block) : s.rekey k = s := by
  rw [State.rekey, if_pos hs]

/-- In a machine without a key, `rekey` is the replacement of `KEY`. -/
theorem State.rekey_of_invalid {s : State} (hs : s.keyValid = false) (k : Block) :
    s.rekey k = { s with key := k } := by
  rw [State.rekey, if_neg (Bool.eq_false_iff.mp hs)]

theorem State.rekey_eq_ite (s : State) (k : Block) :
    s.rekey k = if s.keyValid then s else { s with key := k } := by
  split
  · rename_i hv
    exact State.rekey_of_valid hv k
  · rename_i hv
    exact State.rekey_of_invalid (Bool.eq_false_iff.mpr hv) k

/-! What a command reads besides `KEY` does not see `rekey`, and `rekey` moves outwards through every
operation. -/

section
variable (s : State) (k : Block)

@[simp] theorem State.rekey_a : (s.rekey k).a = s.a := rfl
@[simp] theorem State.rekey_dev : (s.rekey k).dev = s.dev := rfl

@[simp] theorem State.rekey_memRead (p n : Nat) : (s.rekey k).memRead p n = s.memRead p n :=
  State.memRead_congr _ _ _ _ _ fun _ _ => rfl

@[simp] theorem State.rekey_raise (f : Failure) (v : Bank) :
    (s.rekey k).raise f v = (s.raise f v).rekey k := rfl

@[simp] theorem State.rekey_done (v : Bank) : (s.rekey k).done v = (s.done v).rekey k := rfl

@[simp] theorem State.rekey_memWrite (p : Nat) (x : List Byte) :
    (s.rekey k).memWrite p x = (s.memWrite p x).rekey k := rfl

@[simp] theorem State.rekey_setMode (m : BitVec 4) :
    (s.rekey k).setMode m = (s.setMode m).rekey k := rfl

/-- A key that is set replaces whatever stood there (R161). -/
@[simp] theorem State.rekey_setKey (j : Block) : (s.rekey k).setKey j = (s.setKey j).rekey k := rfl

end

/-- A command with checks that do not read `KEY` commutes with `rekey` when its effect does. -/
theorem State.rekey_checked (s : State) (k : Block) (cs : List (Bool × Failure)) (e e' : Unit → State)
    (he : (∀ c ∈ cs, c.1 = false) → e' () = (e ()).rekey k) :
    (s.rekey k).checked cs e' = (s.checked cs e).rekey k := by
  unfold State.checked
  cases hc : firstFailure cs with
  | some f => exact s.rekey_raise k f {}
  | none => exact he ((firstFailure_eq_none cs).mp hc)

/-- A choice that does not read `KEY` commutes with `rekey` when each of its branches does. -/
theorem State.rekey_ite (k : Block) {c : Prop} [Decidable c] {x y x' y' : State} (hx : c → x' = x.rekey k)
    (hy : ¬ c → y' = y.rekey k) : (if c then x' else y') = (if c then x else y).rekey k := by
  split
  · exact hx ‹_›
  · exact hy ‹_›

/-! ### Commands do not see an invalid key -/

/-- The command `i` goes on from `s` and from `s.rekey k` to states that differ by the same replacement. -/
def CommutesWithRekey (i : Instr) (s : State) (k : Block) : Prop :=
  ∃ t, exec i s = .next t ∧ exec i (s.rekey k) = .next (t.rekey k)

section
variable {i : Instr} {s : State} {k : Block} {cs : List (Bool × Failure)} {e e' : Unit → State}

/-- The two runs of a command make the same checks, and its effect does not see the replacement. -/
theorem commutesWithRekey_of_effect (h : exec i s = .next (s.checked cs e))
    (h' : exec i (s.rekey k) = .next ((s.rekey k).checked cs e'))
    (he : (∀ c ∈ cs, c.1 = false) → e' () = (e ()).rekey k) : CommutesWithRekey i s k :=
  ⟨_, h, by rw [h', s.rekey_checked k cs e e' he]⟩

/-- Checks that ask for the key do not all pass without one. -/
theorem not_pass_keyNotSet (hs : s.keyValid = false) (hkey : (!s.keyValid, Failure.keyNotSet) ∈ cs) :
    ¬ ∀ c ∈ cs, c.1 = false := fun hpass => by
  simpa [hs] using hpass _ hkey

/-- Without a key, a command that asks for it never reaches its effect. -/
theorem commutesWithRekey_of_keyNotSet (hs : s.keyValid = false) (h : exec i s = .next (s.checked cs e))
    (h' : exec i (s.rekey k) = .next ((s.rekey k).checked cs e'))
    (hkey : (!s.keyValid, Failure.keyNotSet) ∈ cs) : CommutesWithRekey i s k :=
  commutesWithRekey_of_effect h h' fun hpass => absurd hpass (not_pass_keyNotSet hs hkey)

end

section
variable (s : State) (k : Block)

/-- In every FrameMode PHY_ENCODE leaves `KEY` alone (R145, R146). -/
theorem phyEncode_commutesWithRekey : CommutesWithRekey .phyEncode s k :=
  commutesWithRekey_of_effect rfl rfl fun _ => State.rekey_ite k (fun _ => by simp [passThrough])
    fun _ => s.rekey_checked k _ _ _ fun _ => by simp

/-- PHY_DECODE leaves `KEY` alone, whether or not a block fails (R148, R149). -/
theorem phyDecodeEffect_rekey (o : PhyOps) (n : Nat) :
    phyDecodeEffect (s.rekey k) o n = (phyDecodeEffect s o n).rekey k := by
  simp only [phyDecodeEffect, State.rekey_memRead]
  split <;> simp

/-- In every FrameMode PHY_DECODE leaves `KEY` alone (R146, R148). -/
theorem phyDecode_commutesWithRekey : CommutesWithRekey .phyDecode s k :=
  commutesWithRekey_of_effect rfl rfl fun _ => State.rekey_ite k (fun _ => by simp [passThrough])
    fun _ => s.rekey_checked k _ _ _ fun _ => phyDecodeEffect_rekey s k _ _

/-- GET_RECORD leaves `KEY` alone, with a record or with fillers only (R202). -/
theorem getRecordFrom_rekey (d : List Byte) : getRecordFrom (s.rekey k) d = (getRecordFrom s d).rekey k :=
  State.rekey_ite k (fun _ => by simp) fun _ => s.rekey_checked k _ _ _ fun _ => by simp

/-- A meter payload that is not encrypted does not depend on `KEY` (R203, R204). -/
theorem meterBody_rekey {o : MeterOps} (henc : o.encrypt = false) :
    meterBody (s.rekey k) o = meterBody s o := by
  simp [meterBody, henc]

end

section
variable {s : State} (hs : s.keyValid = false) (k : Block)
include hs

/-- A header build reads `KEY` in Mode 5 only, where it checks `KEY_VALID` first (R112, R115). -/
theorem transport_rekey (o : TransportOps) (n : Nat) (d : DeviceAddress) (hd : BitVec 16 → List Byte) :
    ((s.rekey k).checked (transportChecks s o n) fun _ => transportEffect (s.rekey k) o n d hd) =
      (s.checked (transportChecks s o n) fun _ => transportEffect s o n d hd).rekey k := by
  refine s.rekey_checked k _ _ _ fun hpass => State.rekey_ite k (fun hmode => ?_) fun _ => by simp
  exact absurd hpass (not_pass_keyNotSet hs (by simp [transportChecks, hmode]))

/-- BUILD_METER_FRAME reads `KEY` to encrypt only, where it checks `KEY_VALID` first (R204). -/
theorem buildMeterFrame_commutesWithRekey : CommutesWithRekey .buildMeterFrame s k := by
  refine commutesWithRekey_of_effect rfl rfl fun hpass => ?_
  have henc : (meterOperands s.a).encrypt = false := by simpa [hs] using hpass _ List.mem_cons_self
  simp [meterFrame, meterBody_rekey s k henc, henc]

/-- Every command started without a key behaves the same whatever stands in `KEY` (R28). -/
theorem exec_commutesWithRekey (i : Instr) : CommutesWithRekey i s k := by
  cases i with
  | nop => exact ⟨_, rfl, rfl⟩
  | accessDelay => exact ⟨_, rfl, rfl⟩
  | dllBuild => exact commutesWithRekey_of_effect rfl rfl fun _ => by simp [dllBuildEffect]
  | stlBuild => exact ⟨_, rfl, congrArg _ (transport_rekey hs k _ _ _ _)⟩
  | ltlBuild => exact ⟨_, rfl, congrArg _ (transport_rekey hs k _ _ _ _)⟩
  | phyEncode => exact phyEncode_commutesWithRekey s k
  | phyDecode => exact phyDecode_commutesWithRekey s k
  | getKey => exact commutesWithRekey_of_keyNotSet hs rfl rfl (by simp)
  | encrypt => exact commutesWithRekey_of_keyNotSet hs rfl rfl (by simp [cryptInputChecks])
  | decrypt => exact commutesWithRekey_of_keyNotSet hs rfl rfl (by simp [cryptInputChecks])
  | getRecord =>
    exact commutesWithRekey_of_effect rfl rfl fun _ => by
      rw [← getRecordFrom_rekey, State.rekey_memRead, State.rekey_a]
  | buildMeterFrame => exact buildMeterFrame_commutesWithRekey hs k
  -- the commands left neither check nor use `KEY`; what they read of the state `rekey` does not change
  | _ => exact commutesWithRekey_of_effect rfl rfl fun _ => by simp

end

/-- Settles O3: the write is a move of the HOST, the move issues the word, and the word decodes. -/
theorem stepRunsDecodedCommand : Obligations.StepRunsDecodedCommand := by
  unfold Obligations.StepRunsDecodedCommand
  intro s w i rest hin hdecode
  rw [step_of_issue hin (eventMove_write_cmd _ w), issueCommand_of_decode hdecode]

/-- Settles O5, from the reset values of each field. -/
theorem resetHoldsTheResetValues : Obligations.ResetHoldsTheResetValues :=
  ⟨fun k => ⟨Bank.get_default k, Bank.get_default k⟩, rfl, rfl, rfl, rfl, rfl,
    State.modestat_of_invalid rfl, rfl, State.readByte_of_unwritten rfl, step_of_no_inputs rfl⟩

/-- Settles O14, by the shapes of a command's end. -/
theorem commandsKeepArgumentsAndConfiguration : Obligations.CommandsKeepArgumentsAndConfiguration := by
  unfold Obligations.CommandsKeepArgumentsAndConfiguration
  intro i s t h
  have hend : CommandEnd i s t := commandEnd_of_exec i s t h
  exact ⟨hend.keepsFixed, hend.keepsMode, hend.keepsKey, hend.modeValid, hend.keyValid⟩

/-- Settles O17: every command commutes with the replacement of an invalid key. -/
theorem keyUnobservableWhileInvalid : Obligations.KeyUnobservableWhileInvalid := by
  unfold Obligations.KeyUnobservableWhileInvalid
  intro i s t k hs h
  obtain ⟨u, hu, hrekeyed⟩ := exec_commutesWithRekey hs k i
  obtain rfl : t = u := by rw [hu] at h; cases h; rfl
  rw [← State.rekey_of_invalid hs, hrekeyed, State.rekey_eq_ite]

end Sys2Proof.Machine

/-! The HOST bus (R51, R53, R54, R60): which accesses are moves of the HOST, what each register offset reads and
takes, and the little-endian buffer window. -/

namespace Sys2Proof.Machine

/-! ### Bytes of a little-endian group -/

/-- Byte `i` of `LE_n(v)` is digit `i` of `v` to the base 256 (R10). -/
theorem getD_leBytes (n v i : Nat) (h : i < n) : (leBytes n v).getD i 0#8 = BitVec.ofNat 8 (v / 256 ^ i) := by
  induction n generalizing v i with
  | zero => omega
  | succ n ih =>
    cases i with
    | zero => simp [leBytes]
    | succ i =>
      rw [leBytes, List.getD_cons_succ, ih _ _ (by omega), Nat.div_div_eq_div_mul, ← Nat.pow_succ']

theorem fromLE_memRead_one (s : State) (p : Nat) : fromLE (s.memRead p 1) = (s.readByte p).toNat := by
  simp [State.memRead, fromLE]

theorem fromLE_memRead_two (s : State) (p : Nat) :
    fromLE (s.memRead p 2) = (s.readByte p).toNat + 256 * (s.readByte (p + 1)).toNat := by
  simp [State.memRead, fromLE]

theorem fromLE_memRead_four (s : State) (p : Nat) :
    fromLE (s.memRead p 4) = (s.readByte p).toNat + 256 * (s.readByte (p + 1)).toNat +
      65536 * (s.readByte (p + 2)).toNat + 16777216 * (s.readByte (p + 3)).toNat := by
  simp only [State.memRead, fromLE, Nat.add_assoc, Nat.reduceAdd]
  omega

section
variable {s : State} {offset : Nat} {size : AccessSize}

/-! ### Which accesses are moves of the HOST -/

/-- Every aligned word of the register space can be accessed (R51, R54). -/
theorem accessProblem_register (hreg : offset < windowBase) (halign : offset % 4 = 0) :
    accessProblem s offset .word = none := by
  rw [accessProblem, if_pos hreg, if_pos ⟨rfl, halign⟩]

/-- No other access to the register space is a move (R54; I12; log entry 13). -/
theorem accessProblem_register_misfit (hreg : offset < windowBase) (hmisfit : size ≠ .word ∨ offset % 4 ≠ 0) :
    accessProblem s offset size = some .registerAccessNotAlignedWord := by
  rw [accessProblem, if_pos hreg, if_neg (not_and_or.mpr hmisfit)]

/-- An access that runs past the end of `BUF` is no move (R51; I11b). -/
theorem accessProblem_outside (hwindow : windowBase ≤ offset)
    (hout : windowBase + s.bufSize < offset + size.bytes) :
    accessProblem s offset size = some .offsetOutsideCore := by
  rw [accessProblem, if_neg (Nat.not_lt.mpr hwindow), if_pos (by omega)]

/-- Every aligned group inside `BUF` can be accessed through the window (R51, R60; log entry 8). -/
theorem accessProblem_window {p : Nat} (halign : p % size.bytes = 0) (hfit : p + size.bytes ≤ s.bufSize) :
    accessProblem s (windowBase + p) size = none := by
  rw [accessProblem, if_neg (by omega), Nat.add_sub_cancel_left, if_neg (by omega), if_neg (by omega)]

/-! ### What an access does in a step -/

/-- An access with a problem stops the step, whether it reads or writes (R54, R60). -/
theorem step_of_accessProblem {rest : List Event} {x : Word} {f : Fault}
    (hin : s.inputs = .write offset size x :: rest ∨ s.inputs = .read offset size :: rest)
    (h : accessProblem s offset size = some f) : step s = .fault f := by
  have hrest : accessProblem { s with inputs := rest } offset size = some f := h
  rcases hin with hin | hin <;> simp only [step, hin, eventMove, hrest]

/-- A HOST read that is a move changes the datum returned, and nothing else (R60). -/
theorem step_of_read {rest : List Event} (hin : s.inputs = .read offset size :: rest)
    (h : accessProblem s offset size = none) :
    step s = .next { s with
      inputs := rest
      readData := State.busRead { s with inputs := rest } offset size } := by
  have hrest : accessProblem { s with inputs := rest } offset size = none := h
  simp only [step, hin, eventMove, hrest]

/-- A HOST write that is a move, other than to `CMD`, has its effect on the bus (R60). -/
theorem step_of_write {rest : List Event} {x : Word} (hin : s.inputs = .write offset size x :: rest)
    (h : accessProblem s offset size = none) (hcmd : offset ≠ cmdOffset) :
    step s = .next (State.busWrite { s with inputs := rest } offset size x) := by
  have hrest : accessProblem { s with inputs := rest } offset size = none := h
  simp only [step, hin, eventMove, hrest, if_neg hcmd]

end

/-! ### The register space -/

section
variable (s : State)

/-- `MODESTAT` as a number (R27). -/
theorem State.modestat_toNat : s.modestat.toNat = if s.modeValid then 256 + s.mode.toNat else 0 := by
  unfold State.modestat
  split
  · rw [BitVec.toNat_or, BitVec.toNat_setWidth_of_le (by omega)]
    exact (Nat.two_pow_add_eq_or_of_lt (i := 8) (by omega) 1).symm
  · rfl

/-- `KEYSTAT` as a number (R28). -/
theorem State.keystat_toNat : s.keystat.toNat = if s.keyValid then 1 else 0 := by
  unfold State.keystat
  split <;> rfl

/-- `DEV_VT` as a number: the device type above the version (R29). -/
theorem State.devVt_toNat : s.devVt.toNat = s.dev.ver.toNat + 256 * s.dev.type.toNat := by
  simp only [State.devVt, BitVec.toNat_append, BitVec.toNat_ofNat]
  rw [← Nat.shiftLeft_add_eq_or_of_lt s.dev.ver.isLt]
  simp [Nat.shiftLeft_eq, Nat.mul_comm, Nat.add_comm]

/-- The eight argument registers stand at 0x020 (R51). -/
theorem State.registerAt_argument (k : Fin 8) : s.registerAt (0x020 + 4 * k.val) = s.a.get k := by
  fin_cases k <;> rfl

/-- The eight result registers stand at 0x040 (R51). -/
theorem State.registerAt_result (k : Fin 8) : s.registerAt (0x040 + 4 * k.val) = s.v.get k := by
  fin_cases k <;> rfl

/-- A reserved offset reads 0 (R51). -/
theorem State.registerAt_reserved {offset : Nat} (h : 0x060 ≤ offset) : s.registerAt offset = 0#32 := by
  unfold State.registerAt
  iterate 10 rw [if_neg (by omega)]

/-- A write to `A0..A7` sets the one register at its offset (R51). -/
theorem State.busWrite_argument (k : Fin 8) (size : AccessSize) (x : Word) :
    s.busWrite (0x020 + 4 * k.val) size x = { s with a := s.a.set k x } := by
  fin_cases k <;> rfl

/-- A write to a read-only or reserved offset is ignored (R51). -/
theorem State.busWrite_ignored {offset : Nat} (hreg : offset < windowBase)
    (h : offset < 0x020 ∨ 0x040 ≤ offset) (size : AccessSize) (x : Word) : s.busWrite offset size x = s := by
  rw [State.busWrite, if_pos hreg, if_neg (by omega)]

/-- A HOST read of an aligned word of the register space returns the register at its offset (R51). -/
theorem step_of_read_register {offset : Nat} {rest : List Event} (hin : s.inputs = .read offset .word :: rest)
    (hreg : offset < windowBase) (halign : offset % 4 = 0) :
    step s = .next { s with inputs := rest, readData := s.registerAt offset } := by
  rw [step_of_read hin (accessProblem_register hreg halign), State.busRead, if_pos hreg]
  rfl

end

/-! ### The buffer window -/

section
variable (s : State) {p : Nat} {size : AccessSize} {rest : List Event}

/-- A HOST read of the window returns the number its bytes form (R53). -/
theorem step_of_read_window {n : Nat} (hin : s.inputs = .read (windowBase + p) size :: rest)
    (halign : p % size.bytes = 0) (hfit : p + size.bytes ≤ s.bufSize)
    (hread : fromLE (s.memRead p size.bytes) = n) :
    step s = .next { s with inputs := rest, readData := BitVec.ofNat 32 n } := by
  have hsame : State.memRead { s with inputs := rest } p size.bytes = s.memRead p size.bytes :=
    State.memRead_congr _ _ _ _ _ fun _ _ => rfl
  rw [step_of_read hin (accessProblem_window halign hfit), State.busRead, if_neg (by omega),
    Nat.add_sub_cancel_left, hsame, hread, trunc32]

/-- A HOST write to the window stores the low bytes of its datum (R53). -/
theorem step_of_write_window {x : Word} (hin : s.inputs = .write (windowBase + p) size x :: rest)
    (halign : p % size.bytes = 0) (hfit : p + size.bytes ≤ s.bufSize) :
    step s = .next (State.memWrite { s with inputs := rest } p (leBytes size.bytes x.toNat)) := by
  have hcmd : windowBase + p ≠ cmdOffset := by simp only [windowBase, cmdOffset]; omega
  rw [step_of_write hin (accessProblem_window halign hfit) hcmd, State.busWrite, if_neg (by omega),
    Nat.add_sub_cancel_left]

/-- What a write stores little-endian reads back as its low bytes (R10, R53). -/
theorem fromLE_memRead_memWrite_leBytes (hwf : Memory.wf s.buf) (n v : Nat) :
    fromLE ((s.memWrite p (leBytes n v)).memRead p n) = v % 256 ^ n := by
  have hread := s.memRead_memWrite p (leBytes n v) hwf
  rw [length_leBytes] at hread
  rw [hread, fromLE_leBytes]

/-- After a little-endian write, byte `k` of the range holds digit `k` of the datum (R10, R53). -/
theorem readByte_memWrite_leBytes (hwf : Memory.wf s.buf) (x : Word) {n k : Nat} (hk : k < n) :
    (s.memWrite p (leBytes n x.toNat)).readByte (p + k) = wordByte x k := by
  rw [s.readByte_memWrite p _ _ hwf, if_pos (by rw [length_leBytes]; omega), Nat.add_sub_cancel_left,
    getD_leBytes n _ k hk]
  rfl

end

/-- Settles O9: the offset names an argument register, or the write is ignored. -/
theorem hostWriteSetsOneArgument : Obligations.HostWriteSetsOneArgument := by
  unfold Obligations.HostWriteSetsOneArgument
  intro s rest off x hin hreg halign hcmd
  refine ⟨_, step_of_write hin (accessProblem_register hreg halign) hcmd, ?_⟩
  by_cases harg : ∃ k : Fin 8, off = 0x020 + 4 * k.val
  · obtain ⟨k, rfl⟩ := harg
    rw [State.busWrite_argument]
    refine ⟨rfl, fun j => ?_⟩
    by_cases hj : j = k
    · subst hj
      rw [if_pos rfl, Bank.get_set_same]
    · have hother : 0x020 + 4 * k.val ≠ 0x020 + 4 * j.val := fun heq => hj (Fin.ext (by omega))
      rw [Bank.get_set_other _ _ _ _ hj, if_neg hother]
  · have hout : off < 0x020 ∨ 0x040 ≤ off := by
      by_contra hinside
      have hlow : (off - 0x020) / 4 < 8 := by omega
      exact harg ⟨⟨(off - 0x020) / 4, hlow⟩, by simp only; omega⟩
    rw [State.busWrite_ignored _ hreg hout]
    exact ⟨rfl, fun k => (if_neg fun hk => harg ⟨k, hk⟩).symm⟩

/-- Settles O10, by what each offset of the register space reads as. -/
theorem hostReadReturnsTheBusMap : Obligations.HostReadReturnsTheBusMap := by
  unfold Obligations.HostReadReturnsTheBusMap
  intro s rest off hin hreg halign
  refine ⟨_, step_of_read_register s hin hreg halign, rfl, ?cmd, ?status, ?errinfo, ?modestat, ?keystat,
    ?mfr, ?id, ?vt, ?arguments, ?results, s.registerAt_reserved⟩
  case modestat => rintro rfl; exact s.modestat_toNat
  case keystat => rintro rfl; exact s.keystat_toNat
  case mfr => rintro rfl; exact BitVec.toNat_setWidth_of_le (show 16 ≤ 32 by omega)
  case vt => rintro rfl; exact s.devVt_toNat
  case arguments => rintro k rfl; exact s.registerAt_argument k
  case results => rintro k rfl; exact s.registerAt_result k
  case cmd | status | errinfo | id => rintro rfl; rfl

/-- Settles O11: the window is a range of `BUF`, stored and read little-endian. -/
theorem hostWindowIsLittleEndian : Obligations.HostWindowIsLittleEndian := by
  unfold Obligations.HostWindowIsLittleEndian
  constructor
  · intro s rest p size x hwf hin halign hfit
    refine ⟨_, step_of_write_window s hin halign hfit, rfl, fun k hk => ?bytes, fun a ha => ?frame, ?readBack⟩
    case bytes => exact readByte_memWrite_leBytes _ hwf x hk
    case frame => exact State.readByte_memWrite_outside _ _ _ _ hwf (by rwa [length_leBytes])
    case readBack =>
      exact step_of_read_window _ rfl halign hfit
        (fromLE_memRead_memWrite_leBytes { s with inputs := [.read (0x1000 + p) size] } hwf size.bytes x.toNat)
  · intro s rest p size hin halign hfit
    cases size with
    | byte => exact step_of_read_window s hin halign hfit (fromLE_memRead_one s p)
    | half => exact step_of_read_window s hin halign hfit (fromLE_memRead_two s p)
    | word => exact step_of_read_window s hin halign hfit (fromLE_memRead_four s p)

/-- Settles O12: each such access has a problem, which stops the step. -/
theorem hostNonMovesHaveNoStep : Obligations.HostNonMovesHaveNoStep := by
  unfold Obligations.HostNonMovesHaveNoStep
  rintro s rest off size x hin (⟨hreg, hmisfit⟩ | ⟨hwindow, hout⟩)
  · exact ⟨_, step_of_accessProblem hin (accessProblem_register_misfit hreg hmisfit)⟩
  · exact ⟨_, step_of_accessProblem hin (accessProblem_outside hwindow hout)⟩

end Sys2Proof.Machine

/-! Decoding and encoding (R70, R71, R73), and the operands of a command (R72): which words are a command's, what an
illegal word does, and that a command sees the argument registers through its operands only. -/

namespace Sys2Proof

/-! ### Opcodes and command words -/

/-- The decoder knows the opcode of every command (R71). -/
theorem decodeOpc_opcOf (i : Instr) : decodeOpc (opcOf i) = .ok i := by
  cases i <;> rfl

/-- An opcode decodes to a command only in the row of that command (R71). -/
theorem eq_opcOf_of_decodeOpc {opc : Byte} {i : Instr} (h : decodeOpc opc = .ok i) : opc = opcOf i := by
  unfold decodeOpc at h
  split at h <;> cases h <;> exact BitVec.eq_of_toNat_eq ‹_›

/-- `RSV` is 0 in the words below 0x100 (R70). -/
theorem rsv_eq_zero_iff (w : Word) : w.extractLsb' 8 24 = 0#24 ↔ w.toNat < 256 := by
  rw [← BitVec.toNat_inj, BitVec.extractLsb'_toNat, Nat.shiftRight_eq_div_pow, BitVec.toNat_ofNat]
  omega

/-- A word whose `RSV` is 0 is its opcode, zero-extended (R70). -/
theorem setWidth_opc_of_rsv {w : Word} (h : w.extractLsb' 8 24 = 0#24) :
    (w.extractLsb' 0 8).setWidth 32 = w := by
  have hlow := (rsv_eq_zero_iff w).mp h
  apply BitVec.eq_of_toNat_eq
  rw [BitVec.toNat_setWidth, BitVec.extractLsb'_toNat, Nat.shiftRight_zero]
  omega

/-- The word of a command has `RSV` 0 (R71). -/
theorem rsv_encode (i : Instr) : (encode i).extractLsb' 8 24 = 0#24 := by
  rw [rsv_eq_zero_iff, encode, BitVec.toNat_setWidth]
  omega

/-- The word of a command holds its opcode (R71). -/
theorem opc_encode (i : Instr) : (encode i).extractLsb' 0 8 = opcOf i := by
  apply BitVec.eq_of_toNat_eq
  rw [encode, BitVec.extractLsb'_toNat, BitVec.toNat_setWidth, Nat.shiftRight_zero]
  omega

/-- An encoded command decodes to itself (R70, R71). -/
theorem decode_encode (i : Instr) : decode (encode i) = .ok i := by
  rw [decode, if_neg (not_not_intro (rsv_encode i)), opc_encode, decodeOpc_opcOf]

/-- A word that decodes to a command is the word of that command (R70, R71). -/
theorem eq_encode_of_decode {w : Word} {i : Instr} (h : decode w = .ok i) : w = encode i := by
  unfold decode at h
  split at h
  · cases h
  · rename_i hrsv
    rw [encode, ← eq_opcOf_of_decodeOpc h, setWidth_opc_of_rsv (not_not.mp hrsv)]

/-! ### Illegal words -/

/-- The word of every command is legal by R73's own ranges. -/
theorem wordWellFormed_encode (i : Instr) : wordWellFormed (encode i) = true := by
  cases i <;> rfl

/-- Legality as arithmetic: the word is below 0x100 and outside each of R73's unassigned ranges. -/
theorem wordWellFormed_iff (w : Word) :
    wordWellFormed w = true ↔
      ¬ (256 ≤ w.toNat ∨ (2 ≤ w.toNat ∧ w.toNat ≤ 0x0F) ∨ (0x1A ≤ w.toNat ∧ w.toNat ≤ 0x1F) ∨
        (0x21 ≤ w.toNat ∧ w.toNat ≤ 0x2F) ∨ (0x32 ≤ w.toNat ∧ w.toNat ≤ 0x3F) ∨
        (0x45 ≤ w.toNat ∧ w.toNat ≤ 0x4F) ∨ (0x55 ≤ w.toNat ∧ w.toNat ≤ 0xFF)) := by
  have hopc : (w.extractLsb' 0 8).toNat = w.toNat % 256 := by simp
  simp only [wordWellFormed, rsvIsZero, opcUnassigned, hopc, Bool.and_eq_true, beq_iff_eq, rsv_eq_zero_iff,
    Bool.not_eq_true', Bool.or_eq_false_iff, Bool.and_eq_false_iff, decide_eq_false_iff_not]
  omega

/-- The decoder refuses every word that is not legal (R73). -/
theorem decode_of_not_wordWellFormed {w : Word} (h : ¬ wordWellFormed w = true) : ∃ e, decode w = .error e := by
  cases hd : decode w with
  | error e => exact ⟨e, rfl⟩
  | ok i => exact absurd (eq_encode_of_decode hd ▸ wordWellFormed_encode i) h

namespace Machine

/-- A word the decoder refuses is stored in `CMD` and reported (R26, R73). -/
theorem issueCommand_of_decode_error {s : State} {w : Word} {e : DecodeError} (h : decode w = .error e) :
    issueCommand s w = .next (State.raise { s with cmd := w } .illegalWord) := by
  simp only [issueCommand, h, execIllegal]

/-! ### Clearing the bits no operand names -/

/-- A field of a word keeps its bits under a mask that is all ones there. -/
theorem extractLsb'_and_mask {x m : Word} {i n : Nat} (h : m.extractLsb' i n = BitVec.allOnes n) :
    (x &&& m).extractLsb' i n = x.extractLsb' i n := by
  rw [BitVec.extractLsb'_and, h, BitVec.and_allOnes]

/-- A bit of a word stays under a mask that is one there. -/
theorem getLsbD_and_mask {x m : Word} {i : Nat} (h : m.getLsbD i = true) : (x &&& m).getLsbD i = x.getLsbD i := by
  rw [BitVec.getLsbD_and, h, Bool.and_true]

section
variable (a : Bank)

@[simp] theorem setModeOperand_named : setModeOperand (namedOperands .setMode a) = setModeOperand a :=
  extractLsb'_and_mask rfl

@[simp] theorem mfrEncOperands_named : mfrEncOperands (namedOperands .mfrEnc a) = mfrEncOperands a := by
  simp (disch := decide) only [mfrEncOperands, namedOperands, extractLsb'_and_mask]

@[simp] theorem mfrDecOperand_named : mfrDecOperand (namedOperands .mfrDec a) = mfrDecOperand a :=
  extractLsb'_and_mask rfl

@[simp] theorem cwPackOperands_named : cwPackOperands (namedOperands .cwPack a) = cwPackOperands a := by
  simp (disch := decide) only [cwPackOperands, namedOperands, extractLsb'_and_mask]

@[simp] theorem cwUnpackOperand_named : cwUnpackOperand (namedOperands .cwUnpack a) = cwUnpackOperand a :=
  extractLsb'_and_mask rfl

@[simp] theorem dllBuildOperands_named : dllBuildOperands (namedOperands .dllBuild a) = dllBuildOperands a := by
  simp (disch := decide) only [dllBuildOperands, namedOperands, extractLsb'_and_mask, getLsbD_and_mask]

/-- DLL_PARSE does not name `plen` (R110). -/
@[simp] theorem parseOperands_named_dll :
    parseOperands (namedOperands .dllParse a) = { parseOperands a with plen := 0#32 } := rfl

@[simp] theorem parseOperands_named_stl : parseOperands (namedOperands .stlParse a) = parseOperands a := rfl

@[simp] theorem parseOperands_named_ltl : parseOperands (namedOperands .ltlParse a) = parseOperands a := rfl

/-- GET_RECORD does not name `plen` (R202). -/
@[simp] theorem parseOperands_named_record :
    parseOperands (namedOperands .getRecord a) = { parseOperands a with plen := 0#32 } := rfl

@[simp] theorem transportOperands_named_stl :
    transportOperands (namedOperands .stlBuild a) = transportOperands a := by
  simp (disch := decide) only [transportOperands, namedOperands, extractLsb'_and_mask]

@[simp] theorem transportOperands_named_ltl :
    transportOperands (namedOperands .ltlBuild a) = transportOperands a := by
  simp (disch := decide) only [transportOperands, namedOperands, extractLsb'_and_mask]

@[simp] theorem ltlAddressOperand_named : ltlAddressOperand (namedOperands .ltlBuild a) = ltlAddressOperand a := rfl

@[simp] theorem crcOperands_named : crcOperands (namedOperands .crc16 a) = crcOperands a := rfl

@[simp] theorem phyOperands_named_encode : phyOperands (namedOperands .phyEncode a) = phyOperands a := rfl

@[simp] theorem phyOperands_named_decode : phyOperands (namedOperands .phyDecode a) = phyOperands a := rfl

@[simp] theorem setKeyOperands_named : setKeyOperands (namedOperands .setKey a) = setKeyOperands a := rfl

@[simp] theorem getKeyOperands_named : getKeyOperands (namedOperands .getKey a) = getKeyOperands a := rfl

@[simp] theorem deriveIvOperands_named : deriveIvOperands (namedOperands .deriveIv a) = deriveIvOperands a := by
  simp (disch := decide) only [deriveIvOperands, namedOperands, extractLsb'_and_mask]

@[simp] theorem cryptOperands_named_encrypt : cryptOperands (namedOperands .encrypt a) = cryptOperands a := rfl

/-- DECRYPT does not name `xbc` (R169). -/
@[simp] theorem cryptOperands_named_decrypt :
    cryptOperands (namedOperands .decrypt a) = { cryptOperands a with xbc := 0#32 } := rfl

@[simp] theorem putRecordOperands_named :
    putRecordOperands (namedOperands .putRecord a) = putRecordOperands a := by
  simp (disch := decide) only [putRecordOperands, namedOperands, extractLsb'_and_mask]

@[simp] theorem meterOperands_named : meterOperands (namedOperands .buildMeterFrame a) = meterOperands a := by
  simp (disch := decide) only [meterOperands, namedOperands, extractLsb'_and_mask, getLsbD_and_mask]

/-- ACCESS_WINDOW's accessibility operand is cleared with the unnamed bits (R206). -/
@[simp] theorem windowOperands_named :
    windowOperands (namedOperands .accessWindow a) = { windowOperands a with access := 0#2 } := by
  simp (disch := decide) only [windowOperands, namedOperands, extractLsb'_and_mask, getLsbD_and_mask]
  rfl

@[simp] theorem delayOperands_named : delayOperands (namedOperands .accessDelay a) = delayOperands a := by
  simp (disch := decide) only [delayOperands, namedOperands, extractLsb'_and_mask]

end

/-! ### Replacing the argument registers -/

/-- The state with `b` in `A0..A7`. -/
def State.withArgs (s : State) (b : Bank) : State := { s with a := b }

/-! What a command reads besides `A0..A7` does not see `withArgs`, and `withArgs` moves outwards through every
operation. -/

section
variable (s : State) (b : Bank)

@[simp] theorem State.withArgs_a : (s.withArgs b).a = b := rfl
@[simp] theorem State.withArgs_dev : (s.withArgs b).dev = s.dev := rfl
@[simp] theorem State.withArgs_key : (s.withArgs b).key = s.key := rfl
@[simp] theorem State.withArgs_keyValid : (s.withArgs b).keyValid = s.keyValid := rfl
@[simp] theorem State.withArgs_inBuf (p : Word) (n : Nat) : (s.withArgs b).inBuf p n = s.inBuf p n := rfl

@[simp] theorem State.withArgs_memRead (p n : Nat) : (s.withArgs b).memRead p n = s.memRead p n :=
  State.memRead_congr _ _ _ _ _ fun _ _ => rfl

@[simp] theorem State.withArgs_raise (f : Failure) (v : Bank) :
    (s.withArgs b).raise f v = (s.raise f v).withArgs b := rfl

@[simp] theorem State.withArgs_done (v : Bank) : (s.withArgs b).done v = (s.done v).withArgs b := rfl

@[simp] theorem State.withArgs_memWrite (p : Nat) (x : List Byte) :
    (s.withArgs b).memWrite p x = (s.memWrite p x).withArgs b := rfl

@[simp] theorem State.withArgs_setMode (m : BitVec 4) :
    (s.withArgs b).setMode m = (s.setMode m).withArgs b := rfl

@[simp] theorem State.withArgs_setKey (k : Block) : (s.withArgs b).setKey k = (s.setKey k).withArgs b := rfl

/-- A command with checks commutes with `withArgs` when its effect does. -/
theorem State.withArgs_checked {cs cs' : List (Bool × Failure)} {e e' : Unit → State} (hcs : cs' = cs)
    (he : e' () = (e ()).withArgs b) : (s.withArgs b).checked cs' e' = (s.checked cs e).withArgs b := by
  unfold State.checked
  rw [hcs]
  cases firstFailure cs with
  | some f => exact s.withArgs_raise b f {}
  | none => exact he

/-- A choice commutes with `withArgs` when each of its branches does. -/
theorem State.withArgs_ite {c : Prop} [Decidable c] {t u t' u' : State} (ht : t' = t.withArgs b)
    (hu : u' = u.withArgs b) : (if c then t' else u') = (if c then t else u).withArgs b := by
  rw [ht, hu, ← apply_ite (State.withArgs · b)]

/-! ### What the shared parts of the commands do with the operands they are given -/

@[simp] theorem withArgs_dllBuildEffect (o : DllBuildOps) (lf : Byte) :
    dllBuildEffect (s.withArgs b) o lf = (dllBuildEffect s o lf).withArgs b := rfl

@[simp] theorem withArgs_transportChecks (o : TransportOps) (n : Nat) :
    transportChecks (s.withArgs b) o n = transportChecks s o n := rfl

@[simp] theorem withArgs_transportEffect (o : TransportOps) (n : Nat) (d : DeviceAddress)
    (hd : BitVec 16 → List Byte) :
    transportEffect (s.withArgs b) o n d hd = (transportEffect s o n d hd).withArgs b :=
  State.withArgs_ite b (by simp [transportCiphertext]) (by simp)

@[simp] theorem withArgs_transportParseChecks (o : ParseOps) (n : Nat) (cw : BitVec 16) :
    transportParseChecks (s.withArgs b) o n cw = transportParseChecks s o n cw := rfl

@[simp] theorem withArgs_phyDecodeEffect (o : PhyOps) (n : Nat) :
    phyDecodeEffect (s.withArgs b) o n = (phyDecodeEffect s o n).withArgs b := by
  simp only [phyDecodeEffect, State.withArgs_memRead]
  split <;> rfl

@[simp] theorem withArgs_getRecordFrom (d : List Byte) :
    getRecordFrom (s.withArgs b) d = (getRecordFrom s d).withArgs b :=
  State.withArgs_ite b rfl (s.withArgs_checked b rfl rfl)

@[simp] theorem withArgs_meterFrame (o : MeterOps) : meterFrame (s.withArgs b) o = meterFrame s o := rfl

@[simp] theorem withArgs_meterBody (o : MeterOps) : meterBody (s.withArgs b) o = meterBody s o := rfl

end

/-! ### A command with its unnamed bits cleared -/

/-- The command `i` goes on from `s` and from `s.withArgs b` to states that differ in `A0..A7` only. -/
def CommutesWithArgs (i : Instr) (s : State) (b : Bank) : Prop :=
  ∃ t, exec i s = .next t ∧ exec i (s.withArgs b) = .next (t.withArgs b)

/-- The two runs of a command make the same checks, and its effect does not see the replacement. -/
theorem commutesWithArgs_of_effect {i : Instr} {s : State} {b : Bank} {cs cs' : List (Bool × Failure)}
    {e e' : Unit → State} (h : exec i s = .next (s.checked cs e))
    (h' : exec i (s.withArgs b) = .next ((s.withArgs b).checked cs' e'))
    (hcs : cs' = cs) (he : e' () = (e ()).withArgs b) : CommutesWithArgs i s b :=
  ⟨_, h, by rw [h', s.withArgs_checked b hcs he]⟩

/-- No command sees the bits of `A0..A7` that none of its operands names (R72). -/
theorem exec_commutesWithArgs (i : Instr) (s : State) : CommutesWithArgs i s (namedOperands i s.a) := by
  cases i with
  | nop => exact ⟨_, rfl, rfl⟩
  | accessDelay => exact ⟨_, rfl, by simp [exec, execAccessDelay]⟩
  -- in T-Meter a second row of checks follows; else the operands are passed through
  | phyEncode | phyDecode =>
    exact commutesWithArgs_of_effect rfl rfl rfl
      (State.withArgs_ite _ rfl (s.withArgs_checked _ rfl (by simp)))
  -- the checks read whole registers, which keep their place
  | dllParse | crc16 | setKey | getKey | encrypt | decrypt | getRecord =>
    exact commutesWithArgs_of_effect rfl rfl rfl (by simp)
  -- the checks read fields of the registers, which keep their bits, or the memory
  | _ => exact commutesWithArgs_of_effect rfl rfl (by simp) (by simp)

/-- Settles O1: an opcode decodes in the row of its own command only, and a word whose `RSV` is 0 is its opcode. -/
theorem decodeEncodeAgree : Obligations.DecodeEncodeAgree := by
  unfold Obligations.DecodeEncodeAgree
  intro w i
  exact ⟨eq_encode_of_decode, fun h => h ▸ decode_encode i⟩

/-- Settles O4: the word is none of a legal command, so the decoder refuses it and the step reports it. -/
theorem illegalWordOnlyReports : Obligations.IllegalWordOnlyReports := by
  unfold Obligations.IllegalWordOnlyReports
  intro s w rest hin hillegal
  obtain ⟨e, he⟩ := decode_of_not_wordWellFormed fun hlegal => (wordWellFormed_iff w).mp hlegal hillegal
  rw [step_of_issue hin (eventMove_write_cmd _ w), issueCommand_of_decode_error he]
  rfl

/-- Settles O19: every command commutes with the clearing of the bits it does not name. -/
theorem unnamedOperandBitsIgnored : Obligations.UnnamedOperandBitsIgnored := by
  unfold Obligations.UnnamedOperandBitsIgnored
  intro i s t h
  obtain ⟨u, hu, hcleared⟩ := exec_commutesWithArgs i s
  obtain rfl : t = u := by rw [hu] at h; cases h; rfl
  exact hcleared

/-- Settles O2: six words are commands' own, and the decoder refuses the other two. -/
theorem decodesWordsOfTheTable : Obligations.DecodesWordsOfTheTable :=
  ⟨decode_encode .nop, decode_encode .dllBuild, decode_encode .crc16, decode_encode .phyDecode,
    decode_encode .decrypt, decode_encode .buildMeterFrame, rfl, rfl⟩

end Machine

end Sys2Proof

/-! The configuration commands (R90, R91): how a command that only reports its results or a failure ends, the two ends
of SET_MODE, and that no command but the PHY's depends on `MODE`. -/

namespace Sys2Proof.Machine

/-! ### How a command ends -/

section
variable {i : Instr} {s : State}

/-- A command whose whole effect is its results completes silently (R74). -/
theorem completesSilently_of_done {v : Bank} (h : exec i s = .next (s.done v)) : CompletesSilently i s v :=
  ⟨_, h, ⟨rfl, rfl, rfl⟩, (KeepsFixed.refl s).done v, ⟨rfl, rfl, rfl, rfl⟩, fun _ => rfl⟩

/-- A failure without a block index leaves its cause alone in `ERRINFO` (R25). -/
theorem Failure.errinfo_toNat_of_index {f : Failure} (hf : f.index = 0#16) : f.errinfo.toNat = f.cause.toNat := by
  rw [Failure.errinfo, errinfoWord_toNat, hf]
  simp

/-- A command that raises a failure without a block index changes nothing but the report and the results (R220). -/
theorem failsWith_of_raise {f : Failure} (hf : f.index = 0#16) (h : exec i s = .next (s.raise f)) :
    FailsWith i s f.status.code.toNat f.cause.toNat :=
  ⟨_, h, ⟨statusWord_toNat f.status, Failure.errinfo_toNat_of_index hf, rfl⟩, (KeepsFixed.refl s).raise f {},
    ⟨rfl, rfl, rfl, rfl⟩, fun _ => rfl⟩

end

/-! ### SET_MODE -/

/-- The code SET_MODE is given stands in the low four bits of `A0` (R91). -/
theorem setModeOperand_toNat (a : Bank) : (setModeOperand a).toNat = a.r0.toNat % 16 := by
  simp [setModeOperand]

/-- SET_MODE of a code of R77. -/
theorem exec_setMode_of_le {s : State} (h : (setModeOperand s.a).toNat ≤ 8) :
    exec .setMode s = .next ((s.setMode (setModeOperand s.a)).done {}) :=
  congrArg _ (s.checked_of_pass _ _ (by simpa using h))

/-- SET_MODE of a reserved code. -/
theorem exec_setMode_of_gt {s : State} (h : 8 < (setModeOperand s.a).toNat) :
    exec .setMode s = .next (s.raise .reservedOperand) := by
  simp [exec, execSetMode, h]

/-! ### Replacing the FrameMode -/

/-- The state with `m` in `MODE` and `mv` in `MODE_VALID`. -/
def State.withMode (s : State) (m : BitVec 4) (mv : Bool) : State := { s with mode := m, modeValid := mv }

/-! What a command other than the PHY's reads does not see `withMode`, and `withMode` moves outwards through every
operation but `setMode`. -/

section
variable (s : State) (m : BitVec 4) (mv : Bool)

@[simp] theorem State.withMode_a : (s.withMode m mv).a = s.a := rfl
@[simp] theorem State.withMode_key : (s.withMode m mv).key = s.key := rfl
@[simp] theorem State.withMode_dev : (s.withMode m mv).dev = s.dev := rfl

@[simp] theorem State.withMode_memRead (p n : Nat) : (s.withMode m mv).memRead p n = s.memRead p n :=
  State.memRead_congr _ _ _ _ _ fun _ _ => rfl

@[simp] theorem State.withMode_raise (f : Failure) (v : Bank) :
    (s.withMode m mv).raise f v = (s.raise f v).withMode m mv := rfl

@[simp] theorem State.withMode_done (v : Bank) : (s.withMode m mv).done v = (s.done v).withMode m mv := rfl

@[simp] theorem State.withMode_memWrite (p : Nat) (x : List Byte) :
    (s.withMode m mv).memWrite p x = (s.memWrite p x).withMode m mv := rfl

@[simp] theorem State.withMode_setKey (k : Block) :
    (s.withMode m mv).setKey k = (s.setKey k).withMode m mv := rfl

/-- A command with checks commutes with `withMode` when its effect does. -/
theorem State.withMode_checked {cs cs' : List (Bool × Failure)} {e e' : Unit → State} (hcs : cs' = cs)
    (he : e' () = (e ()).withMode m mv) :
    (s.withMode m mv).checked cs' e' = (s.checked cs e).withMode m mv := by
  subst hcs
  unfold State.checked
  cases firstFailure cs' with
  | some f => exact s.withMode_raise m mv f {}
  | none => exact he

/-- A choice commutes with `withMode` when each of its branches does. -/
theorem State.withMode_ite {c : Prop} [Decidable c] {t u t' u' : State} (ht : t' = t.withMode m mv)
    (hu : u' = u.withMode m mv) : (if c then t' else u') = (if c then t else u).withMode m mv := by
  rw [ht, hu, ← apply_ite (State.withMode · m mv)]

/-- A header build commutes with `withMode`, whether or not it encrypts the payload (R112, R115). -/
@[simp] theorem withMode_transportEffect (o : TransportOps) (n : Nat) (d : DeviceAddress)
    (hd : BitVec 16 → List Byte) :
    transportEffect (s.withMode m mv) o n d hd = (transportEffect s o n d hd).withMode m mv :=
  State.withMode_ite m mv (by simp [transportCiphertext]) rfl

@[simp] theorem withMode_transportParseChecks (o : ParseOps) (n : Nat) (cw : BitVec 16) :
    transportParseChecks (s.withMode m mv) o n cw = transportParseChecks s o n cw := rfl

@[simp] theorem withMode_dllBuildEffect (o : DllBuildOps) (lf : Byte) :
    dllBuildEffect (s.withMode m mv) o lf = (dllBuildEffect s o lf).withMode m mv := rfl

@[simp] theorem withMode_meterFrame (o : MeterOps) : meterFrame (s.withMode m mv) o = meterFrame s o := rfl

@[simp] theorem withMode_meterBody (o : MeterOps) : meterBody (s.withMode m mv) o = meterBody s o := rfl

/-- GET_RECORD commutes with `withMode`, with a record or with fillers only (R202). -/
@[simp] theorem withMode_getRecordFrom (d : List Byte) :
    getRecordFrom (s.withMode m mv) d = (getRecordFrom s d).withMode m mv :=
  State.withMode_ite m mv rfl (s.withMode_checked m mv rfl rfl)

end

/-! ### Commands do not see the FrameMode -/

/-- The command `i` goes on from `s` and from `s.withMode m mv` to states that differ by the same replacement. -/
def CommutesWithMode (i : Instr) (s : State) (m : BitVec 4) (mv : Bool) : Prop :=
  ∃ t, exec i s = .next t ∧ exec i (s.withMode m mv) = .next (t.withMode m mv)

section
variable {i : Instr} {s : State} {m : BitVec 4} {mv : Bool}

/-- The two runs of a command make the same checks, and its effect does not see the replacement. -/
theorem commutesWithMode_of_effect {cs cs' : List (Bool × Failure)} {e e' : Unit → State}
    (h : exec i s = .next (s.checked cs e))
    (h' : exec i (s.withMode m mv) = .next ((s.withMode m mv).checked cs' e'))
    (hcs : cs' = cs) (he : e' () = (e ()).withMode m mv) : CommutesWithMode i s m mv :=
  ⟨_, h, by rw [h', s.withMode_checked m mv hcs he]⟩

/-- Every command but SET_MODE, which replaces `MODE`, and the PHY's two, which read it, behaves the same in every
FrameMode (R91). -/
theorem exec_commutesWithMode (hset : i ≠ .setMode) (henc : i ≠ .phyEncode) (hdec : i ≠ .phyDecode) :
    CommutesWithMode i s m mv := by
  cases i with
  | setMode => exact absurd rfl hset
  | phyEncode => exact absurd rfl henc
  | phyDecode => exact absurd rfl hdec
  | nop | accessDelay => exact ⟨_, rfl, rfl⟩
  | buildMeterFrame =>
    exact commutesWithMode_of_effect rfl rfl rfl (by
      rw [withMode_meterFrame, withMode_meterBody, State.withMode_memWrite, State.withMode_done]; rfl)
  -- a check reads the configuration word in the memory
  | stlParse | ltlParse => exact commutesWithMode_of_effect rfl rfl (by simp) (by simp)
  | _ => exact commutesWithMode_of_effect rfl rfl rfl (by simp)

end

/-- Settles O18: every command named commutes with the replacement of the FrameMode. -/
theorem frameModeActsOnPhyOnly : Obligations.FrameModeActsOnPhyOnly := by
  unfold Obligations.FrameModeActsOnPhyOnly
  intro i s t m mv hset henc hdec h
  obtain ⟨u, hu, hreplaced⟩ := exec_commutesWithMode (s := s) (m := m) (mv := mv) hset henc hdec
  obtain rfl : t = u := by rw [hu] at h; cases h; rfl
  exact hreplaced

/-- Settles O21, by the two ends of SET_MODE. -/
theorem setModeSelectsFrameMode : Obligations.SetModeSelectsFrameMode := by
  unfold Obligations.SetModeSelectsFrameMode
  refine ⟨rfl, fun s => ?_⟩
  rw [← setModeOperand_toNat]
  split
  case isTrue hle =>
    have hkeeps : KeepsFixed s ((s.setMode (setModeOperand s.a)).done {}) := ((KeepsFixed.refl s).setMode _).done {}
    exact ⟨_, exec_setMode_of_le hle, ⟨rfl, rfl, rfl⟩, hkeeps, rfl, rfl, rfl, rfl, fun _ => rfl⟩
  case isFalse hgt => exact failsWith_of_raise rfl (exec_setMode_of_gt (Nat.lt_of_not_le hgt))

/-- Settles O20: NOP is `done` with no results. -/
theorem nopClearsTheReport : Obligations.NopClearsTheReport :=
  ⟨rfl, fun _ => completesSilently_of_done rfl⟩

end Sys2Proof.Machine

/-! The Header Model, first part (R100 to R105): fields of registers as numbers, how a command with checks ends, the
manufacturer code and the configuration word. -/

namespace Sys2Proof.Machine

/-! ### Fields of registers, as numbers -/

/-- A field of a register as a number (R72). -/
theorem toNat_extractLsb' {w : Nat} (x : BitVec w) (i n : Nat) :
    (x.extractLsb' i n).toNat = x.toNat / 2 ^ i % 2 ^ n := by
  rw [BitVec.extractLsb'_toNat, Nat.shiftRight_eq_div_pow]

/-- A field in a result register is the number it holds (R74). -/
theorem setWidth_eq_ofNat {n k : Nat} {x : BitVec n} (h : x.toNat = k) : x.setWidth 32 = BitVec.ofNat 32 k := by
  rw [← h, BitVec.ofNat_toNat]

/-- A field put above bits already in place adds its value there: a word packed field by field is a sum. -/
theorem toNat_or_shiftLeft {w n i k : Nat} {x : BitVec w} {f : BitVec n} (hx : x.toNat = k) (hk : k < 2 ^ i)
    (hf : 2 ^ i * f.toNat < 2 ^ w) : (x ||| f.setWidth w <<< i).toNat = k + 2 ^ i * f.toNat := by
  have hle : f.toNat ≤ 2 ^ i * f.toNat := Nat.le_mul_of_pos_left _ (Nat.two_pow_pos i)
  have hplaced : (f.setWidth w <<< i).toNat = 2 ^ i * f.toNat := by
    rw [BitVec.toNat_shiftLeft, BitVec.toNat_setWidth, Nat.mod_eq_of_lt (lt_of_le_of_lt hle hf),
      Nat.shiftLeft_eq, Nat.mul_comm, Nat.mod_eq_of_lt hf]
  rw [BitVec.toNat_or, hplaced, hx, Nat.lor_comm, ← Nat.two_pow_add_eq_or_of_lt hk, Nat.add_comm]

/-! ### How a command with checks ends -/

section
variable {i : Instr} {s t : State} {cs : List (Bool × Failure)} {e : Unit → State}

/-- The failure `f` reports `STATUS` `st` and the cause `c`, and no block (R222, R25). -/
def Failure.Reports (f : Failure) (st c : Nat) : Prop :=
  f.status.code.toNat = st ∧ f.cause.toNat = c ∧ f.index = 0#16

/-- A command whose first check fails reports the failure of that check (R220, R223). -/
theorem failsWith_of_check {f : Failure} {st n : Nat} (h : exec i s = .next (s.checked ((true, f) :: cs) e))
    (hf : f.Reports st n) : FailsWith i s st n := by
  obtain ⟨rfl, rfl, hindex⟩ := hf
  exact failsWith_of_raise hindex h

/-- A command's first check decides between its failure and what the checks after it leave (R220, R223). -/
theorem failsWith_or_of_check {b : Bool} {f : Failure} {c : Prop} [Decidable c] {rest : Prop} {st n : Nat}
    (h : exec i s = .next (s.checked ((b, f) :: cs) e)) (hf : f.Reports st n) (hb : b = true ↔ c)
    (hrest : exec i s = .next (s.checked cs e) → ¬ c → rest) : if c then FailsWith i s st n else rest := by
  split
  case isTrue hc =>
    obtain rfl : b = true := hb.mpr hc
    exact failsWith_of_check h hf
  case isFalse hc =>
    obtain rfl : b = false := Bool.eq_false_iff.mpr (mt hb.mp hc)
    exact hrest h hc

/-- A command with one check and no effect but its results completes with them exactly when the check passes. -/
theorem completesSilently_or_failsWith {b : Bool} {f : Failure} {c : Prop} [Decidable c] {v w : Bank} {st n : Nat}
    (h : exec i s = .next (s.checked [(!b, f)] fun _ => s.done v)) (hf : f.Reports st n) (hb : b = true ↔ c)
    (hv : c → v = w) : if c then CompletesSilently i s w else FailsWith i s st n := by
  split
  case isTrue hc =>
    obtain rfl : b = true := hb.mpr hc
    exact hv hc ▸ completesSilently_of_done h
  case isFalse hc =>
    obtain rfl : b = false := Bool.eq_false_iff.mpr (mt hb.mp hc)
    exact failsWith_of_check h hf

/-- Two checks in a row that report the same failure are one check (R223). -/
theorem State.checked_or (s : State) (b c : Bool) (f : Failure) (e : Unit → State) :
    s.checked [(b, f), (c, f)] e = s.checked [(b || c, f)] e := by
  cases b <;> rfl

/-- No failure reports `STATUS` OK (R221, R222). -/
theorem statusWord_failure_ne_ok (f : Failure) : statusWord f.status ≠ 0#32 := by
  cases f <;> simp [statusWord, Failure.status, Status.code]

/-- A command with checks that reports OK passed them all and left its effect (R220). -/
theorem checked_ok (h : exec i s = .next (s.checked cs e)) (ht : exec i s = .next t) (hok : t.status = 0#32) :
    (∀ c ∈ cs, c.1 = false) ∧ t = e () := by
  obtain rfl : t = s.checked cs e := by rw [h] at ht; cases ht; rfl
  rcases s.checked_cases cs e with ⟨f, -, hraise⟩ | ⟨hpass, heffect⟩
  · rw [hraise] at hok
    exact absurd hok (statusWord_failure_ne_ok f)
  · exact ⟨(firstFailure_eq_none cs).mp hpass, heffect⟩

/-- How a command ends does not change what a range of `BUF` reads as. -/
@[simp] theorem State.memRead_done (u : State) (v : Bank) (p n : Nat) : (u.done v).memRead p n = u.memRead p n :=
  State.memRead_congr _ _ _ _ _ fun _ _ => rfl

/-- A command whose whole effect is one write and its results completes storing what it wrote (R74, R59). -/
theorem completesStoring_of_done {p : Nat} {x : List Byte} {v : Bank} (hwf : Memory.wf s.buf)
    (h : exec i s = .next ((s.memWrite p x).done v)) : CompletesStoring i s v p x := by
  refine ⟨_, h, ⟨rfl, rfl, rfl⟩, ((KeepsFixed.refl s).memWrite p x).done v, ⟨rfl, rfl, rfl, rfl⟩, ?_, ?_⟩
  · rw [State.memRead_done, s.memRead_memWrite p x hwf]
  · exact fun a ha => s.readByte_memWrite_outside p x a hwf ha

/-- A command whose whole effect is two writes to disjoint ranges and its results completes storing both. -/
theorem completesStoringTwo_of_done {p q : Nat} {x y : List Byte} {v : Bank} (hwf : Memory.wf s.buf)
    (hapart : p + x.length ≤ q ∨ q + y.length ≤ p)
    (h : exec i s = .next (((s.memWrite q y).memWrite p x).done v)) : CompletesStoringTwo i s v p x q y := by
  have hwf' : Memory.wf (s.memWrite q y).buf := s.memWrite_wf q y hwf
  have hkeeps : KeepsFixed s ((s.memWrite q y).memWrite p x) := ((KeepsFixed.refl s).memWrite q y).memWrite p x
  refine ⟨_, h, ⟨rfl, rfl, rfl⟩, hkeeps.done v, ⟨rfl, rfl, rfl, rfl⟩, ?_, ?_, ?_⟩
  · rw [State.memRead_done, State.memRead_memWrite _ p x hwf']
  · rw [State.memRead_done, State.memRead_memWrite_outside _ p x q _ hwf' hapart.symm,
      s.memRead_memWrite q y hwf]
  · intro a hp hq
    exact (State.readByte_memWrite_outside _ p x a hwf' hp).trans (s.readByte_memWrite_outside q y a hwf hq)

end

/-! ### The manufacturer code (R100) -/

/-- An ASCII letter as a range (R100). -/
theorem isLetter_iff (l : Byte) : isLetter l = true ↔ 0x41 ≤ l.toNat ∧ l.toNat ≤ 0x5A := by
  simp [isLetter]

/-- The 5-bit group of a letter is its place in the alphabet (R100). -/
theorem toNat_sub_of_isLetter {l : Byte} (h : isLetter l = true) : (l - 64#8).toNat = l.toNat - 64 := by
  obtain ⟨hlow, hhigh⟩ := (isLetter_iff l).mp h
  exact BitVec.toNat_sub_of_le (BitVec.le_def.mpr (by simp only [BitVec.toNat_ofNat]; omega))

/-- `MfrEnc` as a number, on letters (R100). -/
theorem mfrEnc_toNat {l : Letters} (h1 : isLetter l.l1 = true) (h2 : isLetter l.l2 = true)
    (h3 : isLetter l.l3 = true) :
    (mfrEnc l).toNat = (l.l1.toNat - 64) * 1024 + (l.l2.toNat - 64) * 32 + (l.l3.toNat - 64) := by
  obtain ⟨-, hhigh1⟩ := (isLetter_iff _).mp h1
  obtain ⟨-, hhigh2⟩ := (isLetter_iff _).mp h2
  obtain ⟨-, hhigh3⟩ := (isLetter_iff _).mp h3
  have hg1 := toNat_sub_of_isLetter h1
  have hg2 := toNat_sub_of_isLetter h2
  have hg3 := toNat_sub_of_isLetter h3
  have h0 : ((l.l3 - 64#8).setWidth 16).toNat = l.l3.toNat - 64 :=
    (BitVec.toNat_setWidth_of_le (by omega)).trans hg3
  have h5 := toNat_or_shiftLeft (i := 5) (f := l.l2 - 64#8) h0 (by omega) (by omega)
  have h10 := toNat_or_shiftLeft (i := 10) (f := l.l1 - 64#8) h5 (by omega) (by omega)
  rw [mfrEnc, BitVec.or_comm, BitVec.or_comm (_ <<< _), ← BitVec.or_assoc, h10, hg1, hg2]
  omega

/-- A code of three letters as arithmetic: bit 15 is 0 and each 5-bit group is 1..26 (R100). -/
theorem isMfrCode_iff (c : BitVec 16) :
    isMfrCode c = true ↔ c.toNat < 32768 ∧ (1 ≤ c.toNat / 1024 % 32 ∧ c.toNat / 1024 % 32 ≤ 26) ∧
      (1 ≤ c.toNat / 32 % 32 ∧ c.toNat / 32 % 32 ≤ 26) ∧ (1 ≤ c.toNat % 32 ∧ c.toNat % 32 ≤ 26) := by
  have hbit : c.getLsbD 15 = false ↔ c.toNat < 32768 := by
    rw [← BitVec.msb_eq_getLsbD_last c, BitVec.msb_eq_false_iff_two_mul_lt]; omega
  simp only [isMfrCode, isLetterGroup, toNat_extractLsb', Bool.and_eq_true, Bool.not_eq_true', hbit,
    decide_eq_true_iff, Nat.reducePow, Nat.div_one, and_assoc]

/-- The letters of a code are its groups plus 64 (R100). -/
theorem mfrDec_toNat (c : BitVec 16) :
    (mfrDec c).l1.toNat = c.toNat / 1024 % 32 + 64 ∧ (mfrDec c).l2.toNat = c.toNat / 32 % 32 + 64 ∧
      (mfrDec c).l3.toNat = c.toNat % 32 + 64 := by
  have hgroup (g : BitVec 5) : (g.setWidth 8 + 64#8).toNat = g.toNat + 64 := by
    rw [BitVec.toNat_add, BitVec.toNat_setWidth, BitVec.toNat_ofNat]; omega
  simp only [mfrDec, hgroup, toNat_extractLsb', Nat.reducePow, Nat.div_one, and_self]

/-- The letters of a code of three letters are letters (R100). -/
theorem isLetter_mfrDec {c : BitVec 16} (h : isMfrCode c = true) :
    isLetter (mfrDec c).l1 = true ∧ isLetter (mfrDec c).l2 = true ∧ isLetter (mfrDec c).l3 = true := by
  obtain ⟨-, hg1, hg2, hg3⟩ := (isMfrCode_iff c).mp h
  obtain ⟨e1, e2, e3⟩ := mfrDec_toNat c
  simp only [isLetter_iff, e1, e2, e3]
  omega

section
variable {l : Letters} (h1 : isLetter l.l1 = true) (h2 : isLetter l.l2 = true) (h3 : isLetter l.l3 = true)
include h1 h2 h3

/-- The code of three letters is one (R100). -/
theorem isMfrCode_mfrEnc : isMfrCode (mfrEnc l) = true := by
  have hcode := mfrEnc_toNat h1 h2 h3
  rw [isLetter_iff] at h1 h2 h3
  rw [isMfrCode_iff, hcode]
  omega

/-- `MfrDec` undoes `MfrEnc` on letters (R100). -/
theorem mfrDec_mfrEnc : mfrDec (mfrEnc l) = l := by
  have hcode := mfrEnc_toNat h1 h2 h3
  obtain ⟨e1, e2, e3⟩ := mfrDec_toNat (mfrEnc l)
  rw [isLetter_iff] at h1 h2 h3
  have hl1 : (mfrDec (mfrEnc l)).l1 = l.l1 := BitVec.eq_of_toNat_eq (by omega)
  have hl2 : (mfrDec (mfrEnc l)).l2 = l.l2 := BitVec.eq_of_toNat_eq (by omega)
  have hl3 : (mfrDec (mfrEnc l)).l3 = l.l3 := BitVec.eq_of_toNat_eq (by omega)
  exact congr (congr (congrArg Letters.mk hl1) hl2) hl3

end

/-- `MfrEnc` undoes `MfrDec` on codes of three letters (R100). -/
theorem mfrEnc_mfrDec {c : BitVec 16} (h : isMfrCode c = true) : mfrEnc (mfrDec c) = c := by
  obtain ⟨hl1, hl2, hl3⟩ := isLetter_mfrDec h
  obtain ⟨e1, e2, e3⟩ := mfrDec_toNat c
  obtain ⟨hbound, -⟩ := (isMfrCode_iff c).mp h
  apply BitVec.eq_of_toNat_eq
  rw [mfrEnc_toNat hl1 hl2 hl3, e1, e2, e3]
  omega

/-- The operands of MFR_ENC are the low three bytes of `A0` (R101). -/
theorem mfrEncOperands_toNat (a : Bank) :
    (mfrEncOperands a).l1.toNat = a.r0.toNat % 256 ∧ (mfrEncOperands a).l2.toNat = a.r0.toNat / 256 % 256 ∧
      (mfrEncOperands a).l3.toNat = a.r0.toNat / 65536 % 256 := by
  simp only [mfrEncOperands, toNat_extractLsb', Nat.reducePow, Nat.div_one, and_self]

/-- The operand of MFR_DEC is the low half of `A0` (R102). -/
theorem mfrDecOperand_toNat (a : Bank) : (mfrDecOperand a).toNat = a.r0.toNat % 65536 := by
  simp [mfrDecOperand]

/-- Three letters in a result register, the first in bits 7:0 (R102). -/
theorem packLetters_toNat (l : Letters) :
    (l.l1.setWidth 32 ||| (l.l2.setWidth 32 <<< 8) ||| (l.l3.setWidth 32 <<< 16) : Word).toNat =
      l.l1.toNat + 256 * l.l2.toNat + 65536 * l.l3.toNat := by
  have h0 : (l.l1.setWidth 32).toNat = l.l1.toNat := BitVec.toNat_setWidth_of_le (by omega)
  have h8 := toNat_or_shiftLeft (i := 8) (f := l.l2) h0 (by omega) (by omega)
  exact toNat_or_shiftLeft (i := 16) (f := l.l3) h8 (by omega) (by omega)

/-- MFR_ENC makes its one check, then returns the code (R101). -/
theorem exec_mfrEnc (s : State) :
    exec .mfrEnc s =
      .next (s.checked
        [(!(isLetter (mfrEncOperands s.a).l1 && isLetter (mfrEncOperands s.a).l2 && isLetter (mfrEncOperands s.a).l3),
          .reservedOperand)]
        fun _ => s.done { r0 := (mfrEnc (mfrEncOperands s.a)).setWidth 32 }) := rfl

/-- MFR_DEC makes its one check, then returns the letters (R102). -/
theorem exec_mfrDec (s : State) :
    exec .mfrDec s =
      .next (s.checked [(!isMfrCode (mfrDecOperand s.a), .reservedOperand)] fun _ =>
        s.done { r0 := BitVec.ofNat 32 ((mfrDec (mfrDecOperand s.a)).l1.toNat +
          256 * (mfrDec (mfrDecOperand s.a)).l2.toNat + 65536 * (mfrDec (mfrDecOperand s.a)).l3.toNat) }) := by
  rw [← packLetters_toNat, BitVec.ofNat_toNat, BitVec.setWidth_eq]
  rfl

/-! ### The configuration word (R103) -/

/-- `CwPack` as a number (R103). -/
theorem cwPack_toNat (f : CwFields) :
    (cwPack f).toNat = f.hop.toNat + 2 * f.rep.toNat + 4 * f.content.toNat + 16 * f.nblk.toNat +
      256 * f.mode.toNat + 8192 * f.sync.toNat + 16384 * f.acc.toNat := by
  have h0 : (f.hop.setWidth 16).toNat = f.hop.toNat := BitVec.toNat_setWidth_of_le (by omega)
  have h1 := toNat_or_shiftLeft (i := 1) (f := f.rep) h0 (by omega) (by omega)
  have h2 := toNat_or_shiftLeft (i := 2) (f := f.content) h1 (by omega) (by omega)
  have h4 := toNat_or_shiftLeft (i := 4) (f := f.nblk) h2 (by omega) (by omega)
  have h8 := toNat_or_shiftLeft (i := 8) (f := f.mode) h4 (by omega) (by omega)
  have h13 := toNat_or_shiftLeft (i := 13) (f := f.sync) h8 (by omega) (by omega)
  exact toNat_or_shiftLeft (i := 14) (f := f.acc) h13 (by omega) (by omega)

/-- The fields of a configuration word as numbers (R103). -/
theorem cwUnpack_toNat (cw : BitVec 16) :
    (cwUnpack cw).hop.toNat = cw.toNat % 2 ∧ (cwUnpack cw).rep.toNat = cw.toNat / 2 % 2 ∧
      (cwUnpack cw).content.toNat = cw.toNat / 4 % 4 ∧ (cwUnpack cw).nblk.toNat = cw.toNat / 16 % 16 ∧
      (cwUnpack cw).mode.toNat = cw.toNat / 256 % 32 ∧ (cwUnpack cw).sync.toNat = cw.toNat / 8192 % 2 ∧
      (cwUnpack cw).acc.toNat = cw.toNat / 16384 := by
  have htop : cw.toNat / 16384 % 4 = cw.toNat / 16384 := Nat.mod_eq_of_lt (by omega)
  simp only [cwUnpack, toNat_extractLsb', Nat.reducePow, Nat.div_one, htop, and_self]

/-- `CwPack` undoes the reading of the fields (R105). -/
theorem cwPack_cwUnpack (cw : BitVec 16) : cwPack (cwUnpack cw) = cw := by
  obtain ⟨hhop, hrep, hcontent, hnblk, hmode, hsync, hacc⟩ := cwUnpack_toNat cw
  apply BitVec.eq_of_toNat_eq
  rw [cwPack_toNat, hhop, hrep, hcontent, hnblk, hmode, hsync, hacc]
  omega

/-- The fields of a configuration word are determined by their values. -/
theorem CwFields.eq_of_toNat {f g : CwFields} (hhop : f.hop.toNat = g.hop.toNat) (hrep : f.rep.toNat = g.rep.toNat)
    (hcontent : f.content.toNat = g.content.toNat) (hnblk : f.nblk.toNat = g.nblk.toNat)
    (hmode : f.mode.toNat = g.mode.toNat) (hsync : f.sync.toNat = g.sync.toNat)
    (hacc : f.acc.toNat = g.acc.toNat) : f = g := by
  cases f
  cases g
  simp only [BitVec.toNat_inj] at hhop hrep hcontent hnblk hmode hsync hacc
  subst hhop hrep hcontent hnblk hmode hsync hacc
  rfl

/-- Reading the fields undoes `CwPack` (R105). -/
theorem cwUnpack_cwPack (f : CwFields) : cwUnpack (cwPack f) = f := by
  have hword := cwPack_toNat f
  obtain ⟨hhop, hrep, hcontent, hnblk, hmode, hsync, hacc⟩ := cwUnpack_toNat (cwPack f)
  apply CwFields.eq_of_toNat <;> omega

/-- The security modes in scope as numbers (R79). -/
theorem isSecurityMode_iff (m : BitVec 5) : isSecurityMode m = true ↔ m.toNat = 0 ∨ m.toNat = 5 := by
  simp [isSecurityMode, ← BitVec.toNat_inj]

/-- The operands of CW_PACK are the low bits of `A0..A6` (R104). -/
theorem cwPackOperands_toNat (a : Bank) :
    (cwPackOperands a).hop.toNat = a.r0.toNat % 2 ∧ (cwPackOperands a).rep.toNat = a.r1.toNat % 2 ∧
      (cwPackOperands a).content.toNat = a.r2.toNat % 4 ∧ (cwPackOperands a).nblk.toNat = a.r3.toNat % 16 ∧
      (cwPackOperands a).mode.toNat = a.r4.toNat % 32 ∧ (cwPackOperands a).sync.toNat = a.r5.toNat % 2 ∧
      (cwPackOperands a).acc.toNat = a.r6.toNat % 4 := by
  simp only [cwPackOperands, toNat_extractLsb', Nat.reducePow, Nat.div_one, and_self]

/-- The operand of CW_UNPACK is the low half of `A0` (R105). -/
theorem cwUnpackOperand_toNat (a : Bank) : (cwUnpackOperand a).toNat = a.r0.toNat % 65536 := by
  simp only [cwUnpackOperand, toNat_extractLsb', Nat.reducePow, Nat.div_one]

/-- The fields of a configuration word, one to a register: the results of CW_UNPACK (R105). -/
def CwFields.toBank (f : CwFields) : Bank :=
  { r0 := f.hop.setWidth 32, r1 := f.rep.setWidth 32, r2 := f.content.setWidth 32, r3 := f.nblk.setWidth 32,
    r4 := f.mode.setWidth 32, r5 := f.sync.setWidth 32, r6 := f.acc.setWidth 32 }

/-- The registers of a word's fields hold the fields' values. -/
theorem CwFields.toBank_eq {f : CwFields} {k0 k1 k2 k3 k4 k5 k6 : Nat}
    (h : f.hop.toNat = k0 ∧ f.rep.toNat = k1 ∧ f.content.toNat = k2 ∧ f.nblk.toNat = k3 ∧ f.mode.toNat = k4 ∧
      f.sync.toNat = k5 ∧ f.acc.toNat = k6) :
    f.toBank = { r0 := BitVec.ofNat 32 k0, r1 := BitVec.ofNat 32 k1, r2 := BitVec.ofNat 32 k2,
                 r3 := BitVec.ofNat 32 k3, r4 := BitVec.ofNat 32 k4, r5 := BitVec.ofNat 32 k5,
                 r6 := BitVec.ofNat 32 k6 } := by
  obtain ⟨rfl, rfl, rfl, rfl, rfl, rfl, rfl⟩ := h
  simp only [CwFields.toBank, BitVec.ofNat_toNat]

/-- A field survives the widening to a register and the reading of its bits. -/
theorem extractLsb'_setWidth_of_le {n m : Nat} (x : BitVec n) (h : n ≤ m) : (x.setWidth m).extractLsb' 0 n = x := by
  rw [← BitVec.setWidth_eq_extractLsb' h, BitVec.setWidth_setWidth_of_le x h, BitVec.setWidth_eq]

/-- CW_PACK takes the results of CW_UNPACK for its operands (R104, R105). -/
theorem cwPackOperands_toBank (f : CwFields) : cwPackOperands f.toBank = f := by
  simp (disch := decide) only [cwPackOperands, CwFields.toBank, extractLsb'_setWidth_of_le]

/-- CW_PACK makes its one check, then returns the word (R104). -/
theorem exec_cwPack (s : State) :
    exec .cwPack s =
      .next (s.checked [(!isSecurityMode (cwPackOperands s.a).mode, .securityMode)] fun _ =>
        s.done { r0 := (cwPack (cwPackOperands s.a)).setWidth 32 }) := rfl

/-- CW_UNPACK makes its one check, then returns the fields (R105). -/
theorem exec_cwUnpack (s : State) :
    exec .cwUnpack s =
      .next (s.checked [(!isSecurityMode (cwUnpack (cwUnpackOperand s.a)).mode, .securityMode)] fun _ =>
        s.done (cwUnpack (cwUnpackOperand s.a)).toBank) := rfl

/-! ### The four commands of codes and configuration words -/

/-- Settles O24: both directions, from `MfrEnc` and `MfrDec` as numbers. -/
theorem manufacturerCodeRoundTrip : Obligations.ManufacturerCodeRoundTrip := by
  unfold Obligations.ManufacturerCodeRoundTrip
  constructor
  · intro l h1 h2 h3
    exact ⟨mfrEnc_toNat h1 h2 h3, isMfrCode_mfrEnc h1 h2 h3, mfrDec_mfrEnc h1 h2 h3⟩
  · intro c hc
    obtain ⟨e1, e2, e3⟩ := mfrDec_toNat c
    obtain ⟨hl1, hl2, hl3⟩ := isLetter_mfrDec hc
    exact ⟨e1, e2, e3, hl1, hl2, hl3, mfrEnc_mfrDec hc⟩

/-- Settles O22: the check asks for three letters, and `MfrEnc` of letters is the code as a number. -/
theorem mfrEncPacksLetters : Obligations.MfrEncPacksLetters := by
  unfold Obligations.MfrEncPacksLetters
  refine ⟨rfl, fun s => ?_⟩
  obtain ⟨e1, e2, e3⟩ := mfrEncOperands_toNat s.a
  simp only [← e1, ← e2, ← e3, ← isLetter_iff]
  refine completesSilently_or_failsWith (exec_mfrEnc s) ⟨rfl, rfl, rfl⟩ ?_ fun ⟨h1, h2, h3⟩ => ?_
  · simp only [Bool.and_eq_true, and_assoc]
  rw [setWidth_eq_ofNat (mfrEnc_toNat h1 h2 h3)]

/-- Settles O23: the check asks for a code of three letters, and the letters are its groups plus 64. -/
theorem mfrDecUnpacksLetters : Obligations.MfrDecUnpacksLetters := by
  unfold Obligations.MfrDecUnpacksLetters
  refine ⟨rfl, fun s => ?_⟩
  simp only [← mfrDecOperand_toNat, ← isMfrCode_iff]
  refine completesSilently_or_failsWith (exec_mfrDec s) ⟨rfl, rfl, rfl⟩ Iff.rfl fun _ => ?_
  obtain ⟨e1, e2, e3⟩ := mfrDec_toNat (mfrDecOperand s.a)
  rw [e1, e2, e3]

/-- Settles O25: the check asks for a security mode in scope, and `CwPack` is a sum. -/
theorem cwPackPlacesFields : Obligations.CwPackPlacesFields := by
  unfold Obligations.CwPackPlacesFields
  refine ⟨rfl, fun s => ?_⟩
  obtain ⟨hhop, hrep, hcontent, hnblk, hmode, hsync, hacc⟩ := cwPackOperands_toNat s.a
  simp only [← hhop, ← hrep, ← hcontent, ← hnblk, ← hmode, ← hsync, ← hacc]
  refine completesSilently_or_failsWith (exec_cwPack s) ⟨rfl, rfl, rfl⟩ (isSecurityMode_iff _) fun _ => ?_
  rw [setWidth_eq_ofNat (cwPack_toNat _)]

/-- Settles O26: the check asks for a security mode in scope, and each field is a digit of the word. -/
theorem cwUnpackReturnsFields : Obligations.CwUnpackReturnsFields := by
  unfold Obligations.CwUnpackReturnsFields
  refine ⟨rfl, fun s => ?_⟩
  have hfields := cwUnpack_toNat (cwUnpackOperand s.a)
  rw [cwUnpackOperand_toNat] at hfields
  have ⟨_, _, _, _, hmode, _, _⟩ := hfields
  exact completesSilently_or_failsWith (exec_cwUnpack s) ⟨rfl, rfl, rfl⟩ (hmode ▸ isSecurityMode_iff _) fun _ =>
    CwFields.toBank_eq hfields

/-- Settles O27: a success means that the security mode is in scope, which the other command then finds again. -/
theorem configurationWordRoundTrip : Obligations.ConfigurationWordRoundTrip := by
  unfold Obligations.ConfigurationWordRoundTrip
  constructor
  · intro s t b ht hok hb
    obtain ⟨hpass, rfl⟩ := checked_ok (exec_cwPack s) ht hok
    have hword : cwUnpackOperand b = cwPack (cwPackOperands s.a) := by
      rw [cwUnpackOperand, hb, State.done_v, extractLsb'_setWidth_of_le _ (by decide)]
    have hexec := exec_cwUnpack (State.withArgs (s.done { r0 := (cwPack (cwPackOperands s.a)).setWidth 32 }) b)
    rw [State.withArgs_a, hword, cwUnpack_cwPack, State.checked_of_pass _ _ _ hpass,
      CwFields.toBank_eq (cwPackOperands_toNat s.a)] at hexec
    exact completesSilently_of_done hexec
  · intro s t ht hok
    obtain ⟨hpass, rfl⟩ := checked_ok (exec_cwUnpack s) ht hok
    have hexec := exec_cwPack (State.withArgs (s.done (cwUnpack (cwUnpackOperand s.a)).toBank)
      (cwUnpack (cwUnpackOperand s.a)).toBank)
    rw [State.withArgs_a, cwPackOperands_toBank, State.checked_of_pass _ _ _ hpass, cwPack_cwUnpack,
      setWidth_eq_ofNat (cwUnpackOperand_toNat s.a)] at hexec
    exact completesSilently_of_done hexec

end Sys2Proof.Machine

/-! The Header Model, second part (R106 to R110): the bytes of a register, the ranges of `BUF` a command reads, and the
data-link header that DLL_BUILD writes and DLL_PARSE reads. -/

namespace Sys2Proof.Machine

/-! ### The bytes of a register -/

/-- The byte fields of a register are its bytes (R10). -/
theorem extractLsb'_eq_wordByte (w : Word) (i k : Nat) (h : i = 8 * k) : w.extractLsb' i 8 = wordByte w k := by
  apply BitVec.eq_of_toNat_eq
  rw [toNat_extractLsb', wordByte, BitVec.toNat_ofNat, h, Nat.pow_mul]

/-- The four bytes of a register, in buffer order (R10). -/
theorem leBytes_four (w : Word) :
    leBytes 4 w.toNat = [wordByte w 0, wordByte w 1, wordByte w 2, wordByte w 3] := by
  simp [leBytes, wordByte, Nat.div_div_eq_div_mul]

/-- The low two bytes of a register, in buffer order (R10). -/
theorem leBytes_two (w : Word) : leBytes 2 (w.extractLsb' 0 16).toNat = [wordByte w 0, wordByte w 1] := by
  simp only [leBytes, wordByte, toNat_extractLsb', List.cons.injEq, ← BitVec.toNat_inj, BitVec.toNat_ofNat,
    Nat.reducePow, Nat.div_one, and_true]
  omega

/-! ### Parts of a range read -/

section
variable (s : State) (p : Nat)

/-- A range read without its first bytes is the rest of the range (R59). -/
theorem State.drop_memRead (n k : Nat) : (s.memRead p n).drop k = s.memRead (p + k) (n - k) := by
  induction k generalizing p n with
  | zero => rfl
  | succ k ih =>
    cases n with
    | zero => simp [State.memRead]
    | succ n => rw [State.memRead, List.drop_succ_cons, ih, Nat.add_sub_add_right, Nat.add_right_comm, Nat.add_assoc]

/-- The first bytes of a range read are a shorter range (R59). -/
theorem State.take_memRead {n m : Nat} (h : m ≤ n) : (s.memRead p n).take m = s.memRead p m := by
  induction m generalizing p n with
  | zero => rfl
  | succ m ih =>
    cases n with
    | zero => omega
    | succ n => rw [State.memRead, List.take_succ_cons, ih _ (by omega), State.memRead]

/-- A part of a range read is the range at its place (R59). -/
theorem State.take_drop_memRead {n k m : Nat} (h : k + m ≤ n) :
    ((s.memRead p n).drop k).take m = s.memRead (p + k) m := by
  rw [s.drop_memRead, s.take_memRead _ (by omega)]

/-- A byte of a range read, in a result register (R59). -/
theorem setWidth_byteAt_memRead {n k : Nat} (h : k < n) :
    (byteAt (s.memRead p n) k).setWidth 32 = BitVec.ofNat 32 (s.readByte (p + k)).toNat := by
  rw [byteAt, s.getD_memRead p n k h, BitVec.ofNat_toNat]

/-- The number two bytes of a range read form (R10, R59). -/
theorem fromLE_two_of_memRead {n k : Nat} (h : k + 2 ≤ n) :
    fromLE (((s.memRead p n).drop k).take 2) =
      (s.readByte (p + k)).toNat + 256 * (s.readByte (p + (k + 1))).toNat := by
  rw [s.take_drop_memRead p h, fromLE_memRead_two, Nat.add_assoc]

/-- The number four bytes of a range read form (R10, R59). -/
theorem fromLE_four_of_memRead {n k : Nat} (h : k + 4 ≤ n) :
    fromLE (((s.memRead p n).drop k).take 4) =
      (s.readByte (p + k)).toNat + 256 * (s.readByte (p + (k + 1))).toNat +
        65536 * (s.readByte (p + (k + 2))).toNat + 16777216 * (s.readByte (p + (k + 3))).toNat := by
  rw [s.take_drop_memRead p h, fromLE_memRead_four, Nat.add_assoc p k 1, Nat.add_assoc p k 2, Nat.add_assoc p k 3]

end

/-! ### DLL_BUILD -/

/-- `lField` as an integer (R108). -/
def lFieldValue (t : Nat) (isFrameB : Bool) : Int :=
  if isFrameB then (if t < 125 then (t : Int) + 1 else (t : Int) + 3) else (t : Int) - 1

/-- `LField` gives the value if that is a byte, and fails otherwise (R108). -/
theorem lField_eq (t : Nat) (isFrameB : Bool) :
    lField t isFrameB =
      if lFieldValue t isFrameB < 0 ∨ 255 < lFieldValue t isFrameB then none
      else some (BitVec.ofInt 8 (lFieldValue t isFrameB)) := by
  have hvalue : (if isFrameB then (if t < 125 then (t : Int) - 1 + 2 else (t : Int) - 1 + 4) else (t : Int) - 1) =
      lFieldValue t isFrameB := by
    unfold lFieldValue
    split_ifs <;> omega
  simp only [lField, hvalue]
  split
  case isTrue => rfl
  case isFalse hbyte =>
    obtain ⟨l, hl⟩ : ∃ l : Nat, lFieldValue t isFrameB = l := Int.eq_ofNat_of_zero_le (by omega)
    rw [hl, Int.toNat_natCast, BitVec.ofInt_natCast]

/-- The check of `lField` fails when the value is no byte (R108). -/
theorem lField_isNone_iff (t : Nat) (isFrameB : Bool) :
    (lField t isFrameB).isNone = true ↔ lFieldValue t isFrameB < 0 ∨ 255 < lFieldValue t isFrameB := by
  rw [lField_eq]
  split <;> simp [*]

/-- A value that is a byte is the field (R108). -/
theorem lField_getD {t : Nat} {isFrameB : Bool}
    (h : ¬ (lFieldValue t isFrameB < 0 ∨ 255 < lFieldValue t isFrameB)) :
    (lField t isFrameB).getD 0#8 = BitVec.ofInt 8 (lFieldValue t isFrameB) := by
  rw [lField_eq, if_neg h, Option.getD_some]

/-- A byte's value as an integer is the same in a register. -/
theorem setWidth_ofInt_of_byte {l : Int} (hlow : 0 ≤ l) (hhigh : l ≤ 255) :
    (BitVec.ofInt 8 l).setWidth 32 = BitVec.ofInt 32 l := by
  obtain ⟨n, rfl⟩ := Int.eq_ofNat_of_zero_le hlow
  rw [BitVec.ofInt_natCast, BitVec.ofInt_natCast]
  exact setWidth_eq_ofNat (Nat.mod_eq_of_lt (by omega))

/-- `CField` as a number (R107). -/
theorem cField_toNat (fc : BitVec 4) (fcv fcb prm : BitVec 1) :
    (cField fc fcv fcb prm).toNat = fc.toNat + 16 * fcv.toNat + 32 * fcb.toNat + 64 * prm.toNat := by
  have h0 : (fc.setWidth 8).toNat = fc.toNat := BitVec.toNat_setWidth_of_le (by omega)
  have h4 := toNat_or_shiftLeft (i := 4) (f := fcv) h0 (by omega) (by omega)
  have h5 := toNat_or_shiftLeft (i := 5) (f := fcb) h4 (by omega) (by omega)
  exact toNat_or_shiftLeft (i := 6) (f := prm) h5 (by omega) (by omega)

/-- The control field DLL_BUILD writes is the low seven bits of `A5` (R107, R109). -/
theorem cField_dllBuildOperands (a : Bank) :
    cField (dllBuildOperands a).fc (dllBuildOperands a).fcv (dllBuildOperands a).fcb (dllBuildOperands a).prm =
      BitVec.ofNat 8 (a.r5.toNat % 128) := by
  apply BitVec.eq_of_toNat_eq
  simp only [cField_toNat, dllBuildOperands, toNat_extractLsb', BitVec.toNat_ofNat, Nat.reducePow, Nat.div_one]
  omega

/-- The address DLL_BUILD writes, byte by byte (R106, R109). -/
theorem addressBytes_dllBuildOperands (a : Bank) :
    addressBytes (dllBuildOperands a).addr =
      [ wordByte a.r2 0, wordByte a.r2 1, wordByte a.r3 0, wordByte a.r3 1, wordByte a.r3 2, wordByte a.r3 3,
        wordByte a.r4 0, wordByte a.r4 1 ] := by
  simp only [addressBytes, dllBuildOperands, leBytes_two, leBytes_four, extractLsb'_eq_wordByte a.r4 0 0 rfl,
    extractLsb'_eq_wordByte a.r4 8 1 rfl, List.cons_append, List.nil_append]

/-- The frame format bit of DLL_BUILD (R109). -/
theorem dllBuildOperands_isFrameB (a : Bank) : (dllBuildOperands a).isFrameB = true ↔ a.r5.toNat / 256 % 2 = 1 := by
  simp [dllBuildOperands, BitVec.getLsbD, Nat.testBit_eq_decide_div_mod_eq]

/-- DLL_BUILD makes its three checks, then writes the header (R109). -/
theorem exec_dllBuild (s : State) :
    exec .dllBuild s =
      .next (s.checked
        [ (!s.inBuf s.a.r0 s.a.r1.toNat, .outOfRange),
          ((lField s.a.r6.toNat (dllBuildOperands s.a).isFrameB).isNone, .lFieldOverflow),
          (decide (s.a.r1.toNat < 10), .bufferTooSmall) ]
        fun _ => State.done
          (s.memWrite s.a.r0.toNat (dllHeader ((lField s.a.r6.toNat (dllBuildOperands s.a).isFrameB).getD 0#8)
            (BitVec.ofNat 8 (s.a.r5.toNat % 128)) (dllBuildOperands s.a).addr))
          { r0 := 10#32
            r1 := ((lField s.a.r6.toNat (dllBuildOperands s.a).isFrameB).getD 0#8).setWidth 32 }) := by
  rw [← cField_dllBuildOperands]
  rfl

/-- A DLL_BUILD that succeeds leaves the header at its destination and `lField` in `V1` (R109). -/
theorem dllBuild_ok {s t : State} (hwf : Memory.wf s.buf) (ht : exec .dllBuild s = .next t) (hok : t.status = 0#32) :
    ∃ lf, t.v.r1 = lf.setWidth 32 ∧ t.memRead s.a.r0.toNat 10 =
      dllHeader lf (BitVec.ofNat 8 (s.a.r5.toNat % 128)) (dllBuildOperands s.a).addr := by
  obtain ⟨-, rfl⟩ := checked_ok (exec_dllBuild s) ht hok
  exact ⟨_, rfl, (State.memRead_done _ _ _ _).trans (s.memRead_memWrite _ _ hwf)⟩

/-! ### DLL_PARSE -/

/-- The fields of a data-link header, one to a register: the results of DLL_PARSE (R110). -/
def dllFields (h : List Byte) : Bank :=
  { r0 := (byteAt h 0).setWidth 32, r1 := (byteAt h 1).setWidth 32,
    r2 := trunc32 (fromLE ((h.drop 2).take 2)), r3 := trunc32 (fromLE ((h.drop 4).take 4)),
    r4 := (byteAt h 8).setWidth 32, r5 := (byteAt h 9).setWidth 32 }

/-- DLL_PARSE makes its two checks, then returns the fields (R110). -/
theorem exec_dllParse (s : State) :
    exec .dllParse s =
      .next (s.checked
        [(decide (s.a.r1.toNat < 10), .lengthRange), (!s.inBuf s.a.r0 s.a.r1.toNat, .outOfRange)]
        fun _ => s.done (dllFields (s.memRead s.a.r0.toNat 10))) := rfl

/-- The fields of ten bytes of `BUF`, as numbers (R110). -/
theorem dllFields_memRead (s : State) (p : Nat) :
    dllFields (s.memRead p 10) =
      { r0 := BitVec.ofNat 32 (s.readByte (p + 0)).toNat, r1 := BitVec.ofNat 32 (s.readByte (p + 1)).toNat,
        r2 := BitVec.ofNat 32 ((s.readByte (p + 2)).toNat + 256 * (s.readByte (p + 3)).toNat),
        r3 := BitVec.ofNat 32 ((s.readByte (p + 4)).toNat + 256 * (s.readByte (p + 5)).toNat +
          65536 * (s.readByte (p + 6)).toNat + 16777216 * (s.readByte (p + 7)).toNat),
        r4 := BitVec.ofNat 32 (s.readByte (p + 8)).toNat, r5 := BitVec.ofNat 32 (s.readByte (p + 9)).toNat } := by
  simp (disch := decide) only [dllFields, trunc32, setWidth_byteAt_memRead, fromLE_two_of_memRead,
    fromLE_four_of_memRead, Nat.reduceAdd]

/-- A field laid out little-endian is read back into a register (R10). -/
theorem trunc32_fromLE_leBytes {n w : Nat} {x : BitVec w} (h : x.toNat < 256 ^ n) :
    trunc32 (fromLE (leBytes n x.toNat)) = x.setWidth 32 := by
  rw [fromLE_leBytes, Nat.mod_eq_of_lt h, trunc32, BitVec.ofNat_toNat]

/-- The fields of a header that was laid out are what it was laid out from (R106, R110). -/
theorem dllFields_dllHeader (lf cf : Byte) (d : DeviceAddress) :
    dllFields (dllHeader lf cf d) =
      { r0 := lf.setWidth 32, r1 := cf.setWidth 32, r2 := d.mfr.setWidth 32, r3 := d.id,
        r4 := d.ver.setWidth 32, r5 := d.type.setWidth 32 } := by
  have hmfr : ((dllHeader lf cf d).drop 2).take 2 = leBytes 2 d.mfr.toNat := rfl
  have hid : ((dllHeader lf cf d).drop 4).take 4 = leBytes 4 d.id.toNat := rfl
  rw [dllFields, hmfr, hid, trunc32_fromLE_leBytes (by omega), trunc32_fromLE_leBytes (by omega), BitVec.setWidth_eq]
  rfl

/-- The fields of the header DLL_BUILD lays out are its operands (R109, R110). -/
theorem dllFields_dllBuildOperands (lf : Byte) (a : Bank) :
    dllFields (dllHeader lf (BitVec.ofNat 8 (a.r5.toNat % 128)) (dllBuildOperands a).addr) =
      { r0 := lf.setWidth 32, r1 := BitVec.ofNat 32 (a.r5.toNat % 128), r2 := BitVec.ofNat 32 (a.r2.toNat % 65536),
        r3 := a.r3, r4 := BitVec.ofNat 32 (a.r4.toNat % 256), r5 := BitVec.ofNat 32 (a.r4.toNat / 256 % 256) } := by
  have hcontrol : (BitVec.ofNat 8 (a.r5.toNat % 128)).toNat = a.r5.toNat % 128 := Nat.mod_eq_of_lt (by omega)
  have hmfr : (dllBuildOperands a).addr.mfr.toNat = a.r2.toNat % 65536 := BitVec.extractLsb'_toNat 0 16 a.r2
  have hver : (dllBuildOperands a).addr.ver.toNat = a.r4.toNat % 256 := BitVec.extractLsb'_toNat 0 8 a.r4
  have htype : (dllBuildOperands a).addr.type.toNat = a.r4.toNat / 256 % 256 := toNat_extractLsb' a.r4 8 8
  rw [dllFields_dllHeader, setWidth_eq_ofNat hcontrol, setWidth_eq_ofNat hmfr, setWidth_eq_ofNat hver,
    setWidth_eq_ofNat htype]
  rfl

/-! ### The two commands of the data-link header -/

/-- Settles O28: the three checks in order, then the header's bytes. -/
theorem dllBuildWritesHeader : Obligations.DllBuildWritesHeader := by
  unfold Obligations.DllBuildWritesHeader
  refine ⟨rfl, fun s hwf => ?_⟩
  have hvalue : (if s.a.r5.toNat / 256 % 2 = 1 then
      (if s.a.r6.toNat < 125 then (s.a.r6.toNat : Int) + 1 else (s.a.r6.toNat : Int) + 3)
      else (s.a.r6.toNat : Int) - 1) = lFieldValue s.a.r6.toNat (dllBuildOperands s.a).isFrameB := by
    simp only [lFieldValue, dllBuildOperands_isFrameB]
  simp only [hvalue]
  refine failsWith_or_of_check (exec_dllBuild s) ⟨rfl, rfl, rfl⟩ (by simp) fun hexec _ => ?_
  refine failsWith_or_of_check hexec ⟨rfl, rfl, rfl⟩ (lField_isNone_iff _ _) fun hexec hbyte => ?_
  refine failsWith_or_of_check hexec ⟨rfl, rfl, rfl⟩ decide_eq_true_iff fun hexec _ => ?_
  rw [lField_getD hbyte] at hexec
  generalize lFieldValue s.a.r6.toNat (dllBuildOperands s.a).isFrameB = l at hexec hbyte ⊢
  have hstored := completesStoring_of_done hwf hexec
  rw [dllHeader, addressBytes_dllBuildOperands, setWidth_ofInt_of_byte (by omega) (by omega)] at hstored
  exact hstored

/-- Settles O29: the two checks in order, then the fields of the bytes read. -/
theorem dllParseReturnsFields : Obligations.DllParseReturnsFields := by
  unfold Obligations.DllParseReturnsFields
  refine ⟨rfl, fun s => ?_⟩
  refine failsWith_or_of_check (exec_dllParse s) ⟨rfl, rfl, rfl⟩ decide_eq_true_iff fun hexec _ => ?_
  refine failsWith_or_of_check hexec ⟨rfl, rfl, rfl⟩ (by simp) fun hexec _ => ?_
  rw [dllFields_memRead] at hexec
  exact completesSilently_of_done hexec

/-- Settles O30: the ten bytes DLL_PARSE reads are the header DLL_BUILD laid out. -/
theorem dllParseInvertsDllBuild : Obligations.DllParseInvertsDllBuild := by
  unfold Obligations.DllParseInvertsDllBuild
  intro s t b hwf ht hok hsrc havail hin
  obtain ⟨lf, hlf, hread⟩ := dllBuild_ok hwf ht hok
  have hexec := exec_dllParse (t.withArgs b)
  rw [State.withArgs_a, State.withArgs_inBuf, hin, decide_eq_false (Nat.not_lt.mpr havail), State.withArgs_memRead,
    hsrc, hread, dllFields_dllBuildOperands, ← hlf] at hexec
  exact completesSilently_of_done hexec

end Sys2Proof.Machine

/-! The Header Model, third part (R111 to R117): the transport-layer headers that STL_BUILD and LTL_BUILD lay out, with
the payload's ciphertext in Mode 5, and that STL_PARSE and LTL_PARSE read. -/

namespace Sys2Proof.Machine

/-! ### What STL_BUILD and LTL_BUILD share -/

/-- The fields of `A2` in a header build, as numbers (R112, R115). -/
theorem transportOperands_toNat (a : Bank) :
    (transportOperands a).mode.toNat = a.r2.toNat % 32 ∧
      (transportOperands a).sync.toNat = a.r2.toNat / 2 ^ 24 % 2 ∧
      (transportOperands a).access.toNat = a.r2.toNat / 2 ^ 16 % 4 := by
  simp only [transportOperands, toNat_extractLsb', Nat.reducePow, Nat.div_one, and_self]

/-- The configuration word of a header built for the argument registers `a` (R111, R112). -/
def builtWord (a : Bank) (nblk : Nat) (mode : BitVec 5) : BitVec 16 :=
  builtCw nblk mode (transportOperands a).sync (transportOperands a).access

/-- The configuration word of a built header as a number (R103, R111). -/
theorem builtWord_toNat (a : Bank) {nblk : Nat} (h : nblk ≤ 15) (mode : BitVec 5) :
    (builtWord a nblk mode).toNat =
      16 * nblk + 256 * mode.toNat + 8192 * (a.r2.toNat / 2 ^ 24 % 2) + 16384 * (a.r2.toNat / 2 ^ 16 % 4) := by
  obtain ⟨-, hsync, haccess⟩ := transportOperands_toNat a
  have hnblk : (BitVec.ofNat 4 nblk).toNat = nblk := Nat.mod_eq_of_lt (by omega)
  simp only [builtWord, builtCw, cwPack_toNat, hnblk, hsync, haccess, BitVec.toNat_ofNat]
  omega

/-- The access number of a header build is byte 1 of `A2` (R112, R115). -/
theorem transportOperands_acc (a : Bank) : (transportOperands a).acc = wordByte a.r2 1 :=
  extractLsb'_eq_wordByte a.r2 8 1 rfl

/-- When a header build is in Mode 5 (R112, R115). -/
theorem transportOperands_mode_eq_five_iff (a : Bank) : (transportOperands a).mode = 5#5 ↔ a.r2.toNat % 32 = 5 := by
  obtain ⟨hmode, -, -⟩ := transportOperands_toNat a
  rw [← BitVec.toNat_inj, hmode]
  rfl

/-- A configuration word in buffer order (R10, R111). -/
theorem leBytes_cw (cw : BitVec 16) :
    leBytes 2 cw.toNat = [BitVec.ofNat 8 cw.toNat, BitVec.ofNat 8 (cw.toNat / 256)] := rfl

/-- The manufacturer code of an LTL header stands in the low half of `A7` (R115). -/
theorem leBytes_ltlAddress_mfr (a : Bank) :
    leBytes 2 (ltlAddressOperand a).mfr.toNat = [wordByte a.r7 0, wordByte a.r7 1] := leBytes_two a.r7

/-- The version and the device type of an LTL header stand in the high half of `A7` (R115). -/
theorem ltlAddress_ver_type (a : Bank) :
    (ltlAddressOperand a).ver = wordByte a.r7 2 ∧ (ltlAddressOperand a).type = wordByte a.r7 3 :=
  ⟨extractLsb'_eq_wordByte a.r7 16 2 rfl, extractLsb'_eq_wordByte a.r7 24 3 rfl⟩

/-- The identifier of an LTL header is `A6` (R115). -/
theorem leBytes_ltlAddress_id (a : Bank) :
    leBytes 4 (ltlAddressOperand a).id.toNat = [wordByte a.r6 0, wordByte a.r6 1, wordByte a.r6 2, wordByte a.r6 3] :=
  leBytes_four a.r6

/-- The header STL_BUILD lays out, byte by byte (R111). -/
theorem stlHeader_eq_builtHeader (a : Bank) (cw : BitVec 16) :
    stlHeader (transportOperands a).acc cw = builtHeader .stlBuild a cw.toNat := by
  rw [stlHeader, transportOperands_acc, leBytes_cw]
  rfl

/-- The header LTL_BUILD lays out, byte by byte (R114). -/
theorem ltlHeader_eq_builtHeader (a : Bank) (cw : BitVec 16) :
    ltlHeader (ltlAddressOperand a) (transportOperands a).acc cw = builtHeader .ltlBuild a cw.toNat := by
  obtain ⟨hver, htype⟩ := ltlAddress_ver_type a
  rw [ltlHeader, leBytes_ltlAddress_id, leBytes_ltlAddress_mfr, hver, htype, transportOperands_acc, leBytes_cw]
  rfl

/-- The CORE's own address begins the IV of an STL_BUILD (R112). -/
theorem addressBytes_dev (s : State) : addressBytes s.dev = builtIvAddress .stlBuild s := by
  have hmfr : s.dev.mfr.toNat = ((s.dev.mfr.setWidth 32).extractLsb' 0 16).toNat := by
    rw [extractLsb'_setWidth_of_le _ (by decide)]
  rw [addressBytes, hmfr, leBytes_two, leBytes_four]
  rfl

/-- The address in the operands begins the IV of an LTL_BUILD (R115). -/
theorem addressBytes_ltlAddressOperand (s : State) :
    addressBytes (ltlAddressOperand s.a) = builtIvAddress .ltlBuild s := by
  obtain ⟨hver, htype⟩ := ltlAddress_ver_type s.a
  rw [addressBytes, leBytes_ltlAddress_mfr, leBytes_ltlAddress_id, hver, htype]
  rfl

section
variable {i : Instr} {s : State}

/-- A built header is as long as its kind says (R111, R114). -/
theorem length_builtHeader (hi : i = .stlBuild ∨ i = .ltlBuild) (a : Bank) (cw : Nat) :
    (builtHeader i a cw).length = headerLength i := by
  rcases hi with rfl | rfl <;> rfl

/-- STL_BUILD and LTL_BUILD make the checks of a header build and then lay out the header of their kind, with the
IV's address of their kind (R112, R115). -/
theorem exec_transportBuild (hi : i = .stlBuild ∨ i = .ltlBuild) (s : State) :
    ∃ d, addressBytes d = builtIvAddress i s ∧
      exec i s = .next (s.checked (transportChecks s (transportOperands s.a) (headerLength i)) fun _ =>
        transportEffect s (transportOperands s.a) (headerLength i) d fun cw => builtHeader i s.a cw.toNat) := by
  rcases hi with rfl | rfl
  · refine ⟨s.dev, addressBytes_dev s, ?_⟩
    simp only [← stlHeader_eq_builtHeader]
    rfl
  · refine ⟨ltlAddressOperand s.a, addressBytes_ltlAddressOperand s, ?_⟩
    simp only [← ltlHeader_eq_builtHeader]
    rfl

/-- The checks and the effect of a header build outside Mode 5 (R112, R115). -/
theorem exec_transportBuild_plain (hi : i = .stlBuild ∨ i = .ltlBuild) (hmode : s.a.r2.toNat % 32 ≠ 5) :
    exec i s = .next (s.checked
      [ (!isSecurityMode (transportOperands s.a).mode, .securityMode),
        (!s.inBuf s.a.r0 s.a.r1.toNat, .outOfRange),
        (decide (s.a.r1.toNat < headerLength i), .bufferTooSmall) ]
      fun _ => (s.memWrite s.a.r0.toNat (builtHeader i s.a (builtWord s.a 0 0#5).toNat)).done
        { r0 := trunc32 (headerLength i), r1 := s.a.r4, r2 := (builtWord s.a 0 0#5).setWidth 32 }) := by
  obtain ⟨d, -, hexec⟩ := exec_transportBuild hi s
  have hmode' : (transportOperands s.a).mode ≠ 5#5 := mt (transportOperands_mode_eq_five_iff s.a).mp hmode
  simp only [transportChecks, transportEffect, if_neg hmode'] at hexec
  exact hexec

/-- The ciphertext that replaces the payload of a Mode 5 build, from the registers (R112, R163, R165, R166). -/
def builtCiphertext (i : Instr) (s : State) : List Byte :=
  cbcEncrypt s.key (builtIvAddress i s ++ List.replicate 8 (wordByte s.a.r2 1))
    (s.memRead s.a.r3.toNat s.a.r4.toNat ++
      List.replicate (16 * ceilDiv16 s.a.r4.toNat - s.a.r4.toNat) 0x2F#8)

/-- With the IV's address of its kind, a header build leaves that ciphertext (R112). -/
theorem transportCiphertext_eq {d : DeviceAddress} (hd : addressBytes d = builtIvAddress i s) :
    transportCiphertext s (transportOperands s.a) d = builtCiphertext i s := by
  rw [transportCiphertext, deriveIv, hd, transportOperands_acc, pad, State.length_memRead]
  rfl

/-- The ciphertext of a header build fills its blocks (R117). -/
theorem length_builtCiphertext (hi : i = .stlBuild ∨ i = .ltlBuild) (s : State) :
    (builtCiphertext i s).length = 16 * ceilDiv16 s.a.r4.toNat := by
  obtain ⟨d, hd, -⟩ := exec_transportBuild hi s
  rw [← transportCiphertext_eq hd, length_transportCiphertext]
  rfl

/-- The checks and the effect of a header build in Mode 5 (R112, R115). -/
theorem exec_transportBuild_encrypted (hi : i = .stlBuild ∨ i = .ltlBuild) (hmode : s.a.r2.toNat % 32 = 5) :
    exec i s = .next (s.checked
      [ (s.a.r3 == nullAddr, .nullAddress),
        (s.a.r4 == 0#32, .zeroLength),
        (!s.keyValid, .keyNotSet),
        (!s.inBuf s.a.r0 s.a.r1.toNat || !s.inBuf s.a.r3 s.a.r5.toNat, .outOfRange),
        (overlap s.a.r0 s.a.r1.toNat s.a.r3 s.a.r5.toNat, .overlap),
        (decide (15 < ceilDiv16 s.a.r4.toNat), .encBlocksMismatch),
        (decide (s.a.r1.toNat < headerLength i), .bufferTooSmall),
        (decide (s.a.r5.toNat < 16 * ceilDiv16 s.a.r4.toNat), .bufferTooSmall) ]
      fun _ => ((s.memWrite s.a.r3.toNat (builtCiphertext i s)).memWrite s.a.r0.toNat
          (builtHeader i s.a (builtWord s.a (ceilDiv16 s.a.r4.toNat) 5#5).toNat)).done
        { r0 := trunc32 (headerLength i), r1 := trunc32 (16 * ceilDiv16 s.a.r4.toNat),
          r2 := (builtWord s.a (ceilDiv16 s.a.r4.toNat) 5#5).setWidth 32,
          r3 := trunc32 (ceilDiv16 s.a.r4.toNat) }) := by
  obtain ⟨d, hd, hexec⟩ := exec_transportBuild hi s
  have hmode' : (transportOperands s.a).mode = 5#5 := (transportOperands_mode_eq_five_iff s.a).mpr hmode
  simp only [transportChecks, transportEffect, if_pos hmode', transportCiphertext_eq hd] at hexec
  exact hexec

/-- The header and the ciphertext of a Mode 5 build stand apart, when their ranges do not overlap and hold them
(R57, R112). -/
theorem builtRanges_disjoint (hi : i = .stlBuild ∨ i = .ltlBuild) (hlen : s.a.r4 ≠ 0#32)
    (hapart : ¬ overlap s.a.r0 s.a.r1.toNat s.a.r3 s.a.r5.toNat = true)
    (hcap : ¬ (s.a.r1.toNat < headerLength i ∨ s.a.r5.toNat < 16 * ceilDiv16 s.a.r4.toNat)) {cw : Nat} :
    s.a.r0.toNat + (builtHeader i s.a cw).length ≤ s.a.r3.toNat ∨
      s.a.r3.toNat + (builtCiphertext i s).length ≤ s.a.r0.toNat := by
  have hblocks : 0 < ceilDiv16 s.a.r4.toNat := by
    have hpos : s.a.r4.toNat ≠ 0 := fun h0 => hlen (BitVec.eq_of_toNat_eq h0)
    unfold ceilDiv16
    omega
  have hheader : 0 < headerLength i := by rcases hi with rfl | rfl <;> decide
  rw [overlap_iff] at hapart
  rw [length_builtHeader hi, length_builtCiphertext hi]
  omega

end

/-! ### STL_PARSE and LTL_PARSE -/

/-- A configuration word read from `BUF`, as a number (R103, R113). -/
theorem toNat_ofNat_fromLE_two (s : State) (p : Nat) {n k : Nat} (h : k + 2 ≤ n) :
    (BitVec.ofNat 16 (fromLE (((s.memRead p n).drop k).take 2))).toNat =
      (s.readByte (p + k)).toNat + 256 * (s.readByte (p + (k + 1))).toNat := by
  rw [fromLE_two_of_memRead s p h]
  exact Nat.mod_eq_of_lt (by omega)

section
variable {i : Instr} {s : State}

/-- The four checks of STL_PARSE and LTL_PARSE in order, for a header of `n` bytes with the configuration word `cw`
(R113, R116). -/
theorem transportParse_cases {n k : Nat} {cw : BitVec 16} {v : Bank} (hcw : cw.toNat = k)
    (hexec : exec i s =
      .next (s.checked (transportParseChecks s (parseOperands s.a) n cw) fun _ => s.done v)) :
    if s.a.r1.toNat < n then FailsWith i s 5 8
    else if s.inBuf s.a.r0 s.a.r1.toNat = false then FailsWith i s 5 3
    else if k / 256 % 32 ≠ 0 ∧ k / 256 % 32 ≠ 5 then FailsWith i s 5 5
    else if k / 256 % 32 = 5 ∧ k / 16 % 16 ≠ (s.a.r2.toNat + 15) / 16 then FailsWith i s 4 2
    else CompletesSilently i s v := by
  obtain ⟨-, -, -, hnblk, hmode, -, -⟩ := cwUnpack_toNat cw
  rw [hcw] at hnblk hmode
  have hfive : (cwUnpack cw).mode = 5#5 ↔ k / 256 % 32 = 5 := by rw [← hmode, ← BitVec.toNat_inj]; rfl
  refine failsWith_or_of_check hexec ⟨rfl, rfl, rfl⟩ decide_eq_true_iff fun hexec _ => ?_
  refine failsWith_or_of_check hexec ⟨rfl, rfl, rfl⟩ (by simp [parseOperands]) fun hexec _ => ?_
  refine failsWith_or_of_check hexec ⟨rfl, rfl, rfl⟩ ?_ fun hexec _ => ?_
  · rw [Bool.not_eq_true', Bool.eq_false_iff, Ne, isSecurityMode_iff, hmode, not_or]
  refine failsWith_or_of_check hexec ⟨rfl, rfl, rfl⟩ ?_ fun hexec _ => completesSilently_of_done hexec
  rw [Bool.and_eq_true, beq_iff_eq, decide_eq_true_iff, hfive, hnblk]
  rfl

end

/-- STL_PARSE makes its checks on the word in the header's last two bytes, then returns the fields (R113). -/
theorem exec_stlParse (s : State) :
    ∃ cw : BitVec 16,
      cw.toNat = (s.readByte (s.a.r0.toNat + 3)).toNat + 256 * (s.readByte (s.a.r0.toNat + 4)).toNat ∧
      exec .stlParse s =
        .next (s.checked (transportParseChecks s (parseOperands s.a) 5 cw) fun _ => s.done
          { r0 := BitVec.ofNat 32 (s.readByte (s.a.r0.toNat + 0)).toNat,
            r1 := BitVec.ofNat 32 (s.readByte (s.a.r0.toNat + 1)).toNat,
            r2 := BitVec.ofNat 32 (s.readByte (s.a.r0.toNat + 2)).toNat, r3 := cw.setWidth 32 }) := by
  refine ⟨_, toNat_ofNat_fromLE_two s s.a.r0.toNat (n := 5) (k := 3) (by decide), ?_⟩
  simp (disch := decide) only [← setWidth_byteAt_memRead s s.a.r0.toNat (n := 5)]
  rfl

/-- LTL_PARSE makes its checks on the word in the header's last two bytes, then returns the fields (R116). -/
theorem exec_ltlParse (s : State) :
    ∃ cw : BitVec 16,
      cw.toNat = (s.readByte (s.a.r0.toNat + 11)).toNat + 256 * (s.readByte (s.a.r0.toNat + 12)).toNat ∧
      exec .ltlParse s =
        .next (s.checked (transportParseChecks s (parseOperands s.a) 13 cw) fun _ => s.done
          { r0 := BitVec.ofNat 32 (s.readByte (s.a.r0.toNat + 0)).toNat,
            r1 := BitVec.ofNat 32 (s.readByte (s.a.r0.toNat + 9)).toNat,
            r2 := BitVec.ofNat 32 (s.readByte (s.a.r0.toNat + 10)).toNat, r3 := cw.setWidth 32,
            r4 := BitVec.ofNat 32 ((s.readByte (s.a.r0.toNat + 1)).toNat + 256 * (s.readByte (s.a.r0.toNat + 2)).toNat +
              65536 * (s.readByte (s.a.r0.toNat + 3)).toNat + 16777216 * (s.readByte (s.a.r0.toNat + 4)).toNat),
            r5 := BitVec.ofNat 32 ((s.readByte (s.a.r0.toNat + 5)).toNat + 256 * (s.readByte (s.a.r0.toNat + 6)).toNat),
            r6 := BitVec.ofNat 32 (s.readByte (s.a.r0.toNat + 7)).toNat,
            r7 := BitVec.ofNat 32 (s.readByte (s.a.r0.toNat + 8)).toNat }) := by
  refine ⟨_, toNat_ofNat_fromLE_two s s.a.r0.toNat (n := 13) (k := 11) (by decide), ?_⟩
  have hid := fromLE_four_of_memRead s s.a.r0.toNat (n := 13) (k := 1) (by decide)
  have hmfr := fromLE_two_of_memRead s s.a.r0.toNat (n := 13) (k := 5) (by decide)
  simp (disch := decide) only [← setWidth_byteAt_memRead s s.a.r0.toNat (n := 13), ← hid, ← hmfr]
  rfl

/-! ### The four commands of the transport-layer headers -/

/-- Settles O31: the three checks in order, then the header. -/
theorem transportBuildWithoutEncryption : Obligations.TransportBuildWithoutEncryption := by
  unfold Obligations.TransportBuildWithoutEncryption
  refine ⟨rfl, rfl, fun i s hi hwf hmode => ?_⟩
  obtain ⟨hmodeOp, -, -⟩ := transportOperands_toNat s.a
  have hcw : (builtWord s.a 0 0#5).toNat =
      8192 * (s.a.r2.toNat / 2 ^ 24 % 2) + 16384 * (s.a.r2.toNat / 2 ^ 16 % 4) := by
    simpa using builtWord_toNat s.a (Nat.zero_le 15) 0#5
  refine failsWith_or_of_check (exec_transportBuild_plain hi hmode) ⟨rfl, rfl, rfl⟩ ?_ fun hexec _ => ?_
  · rw [Bool.not_eq_true', Bool.eq_false_iff, Ne, isSecurityMode_iff, hmodeOp]
    omega
  refine failsWith_or_of_check hexec ⟨rfl, rfl, rfl⟩ (by simp) fun hexec _ => ?_
  refine failsWith_or_of_check hexec ⟨rfl, rfl, rfl⟩ decide_eq_true_iff fun hexec _ => ?_
  rw [setWidth_eq_ofNat hcw, hcw] at hexec
  exact completesStoring_of_done hwf hexec

/-- Settles O32: the checks in order, then the ciphertext and the header, in ranges that stand apart. -/
theorem transportBuildWithEncryption : Obligations.TransportBuildWithEncryption := by
  unfold Obligations.TransportBuildWithEncryption
  intro i s hi hwf hmode
  refine failsWith_or_of_check (exec_transportBuild_encrypted hi hmode) ⟨rfl, rfl, rfl⟩ beq_iff_eq fun hexec _ => ?_
  refine failsWith_or_of_check hexec ⟨rfl, rfl, rfl⟩ beq_iff_eq fun hexec hlen => ?_
  refine failsWith_or_of_check hexec ⟨rfl, rfl, rfl⟩ (by simp) fun hexec _ => ?_
  refine failsWith_or_of_check hexec ⟨rfl, rfl, rfl⟩ (by simp) fun hexec _ => ?_
  refine failsWith_or_of_check hexec ⟨rfl, rfl, rfl⟩ Iff.rfl fun hexec hapart => ?_
  refine failsWith_or_of_check hexec ⟨rfl, rfl, rfl⟩ decide_eq_true_iff fun hexec hblocks => ?_
  rw [State.checked_or] at hexec
  refine failsWith_or_of_check hexec ⟨rfl, rfl, rfl⟩ ?_ fun hexec hcap => ?_
  · rw [Bool.or_eq_true, decide_eq_true_iff, decide_eq_true_iff]
    rfl
  have hcw := builtWord_toNat s.a (nblk := ceilDiv16 s.a.r4.toNat) (Nat.not_lt.mp hblocks) 5#5
  rw [setWidth_eq_ofNat hcw, hcw] at hexec
  exact completesStoringTwo_of_done hwf (builtRanges_disjoint hi hlen hapart hcap) hexec

/-- Settles O33: for each kind of header the four checks in order, then its fields. -/
theorem transportParseReturnsFields : Obligations.TransportParseReturnsFields := by
  unfold Obligations.TransportParseReturnsFields
  refine ⟨rfl, rfl, fun i s hi => ?_⟩
  rcases hi with rfl | rfl
  · obtain ⟨cw, hcw, hexec⟩ := exec_stlParse s
    rw [setWidth_eq_ofNat hcw] at hexec
    exact transportParse_cases hcw hexec
  · obtain ⟨cw, hcw, hexec⟩ := exec_ltlParse s
    rw [setWidth_eq_ofNat hcw] at hexec
    exact transportParse_cases hcw hexec

end Sys2Proof.Machine

/-! The CRC Engine (R130 to R133): the CRC's shift register as a one-to-one function of its remainder and of a byte, its
mirror image that shifts the other way, and the command CRC16. -/

namespace Sys2Proof.Machine

/-! ### The shift register (R130) -/

/-- Applying a function `n` times is Mathlib's iteration. -/
theorem times_eq_iterate {α : Type} (f : α → α) (n : Nat) : times f n = f^[n] := by
  funext x
  induction n generalizing x with
  | zero => rfl
  | succ n ih => exact ih (f x)

/-- The lowest bit after a shift is the bit shifted out, since the polynomial is odd. -/
theorem getLsbD_crcShift_zero (r : BitVec 16) : (crcShift r).getLsbD 0 = r.getLsbD 15 := by
  unfold crcShift
  split <;> simp_all

/-- A shift loses nothing: the lowest bit tells whether the polynomial was added. -/
theorem crcShift_injective : Function.Injective crcShift := by
  intro r r' h
  have htop : r.getLsbD 15 = r'.getLsbD 15 := by
    rw [← getLsbD_crcShift_zero, h, getLsbD_crcShift_zero]
  have hshift : r <<< 1 = r' <<< 1 := by
    unfold crcShift at h
    rw [htop] at h
    split at h
    · exact (BitVec.xor_left_inj _).mp h
    · exact h
  apply BitVec.eq_of_getLsbD_eq
  intro i hi
  by_cases h15 : i = 15
  · rw [h15, htop]
  · have hbit := congrArg (fun v => v.getLsbD (i + 1)) hshift
    simpa [hi, show i + 1 < 16 by omega] using hbit

/-- The remainder after a byte determines the one before it. -/
theorem crcByte_injective_left (b : Byte) : Function.Injective fun r => crcByte r b := by
  intro r r' h
  simp only [crcByte, times_eq_iterate] at h
  exact (BitVec.xor_left_inj _).mp (crcShift_injective.iterate 8 h)

/-- The remainder after a byte determines the byte. -/
theorem crcByte_injective_right (r : BitVec 16) : Function.Injective (crcByte r) := by
  intro b c h
  simp only [crcByte, times_eq_iterate] at h
  have hplaced := (BitVec.xor_right_inj _).mp (crcShift_injective.iterate 8 h)
  apply BitVec.eq_of_getLsbD_eq
  intro i hi
  have hbit := congrArg (fun v => v.getLsbD (i + 8)) hplaced
  simpa [show i + 8 < 16 by omega, show i < 16 by omega] using hbit

/-- The remainder after any bytes determines the one before them. -/
theorem foldl_crcByte_injective (z : List Byte) : Function.Injective fun r => z.foldl crcByte r := by
  induction z with
  | nil => exact fun _ _ h => h
  | cons b z ih => exact ih.comp (crcByte_injective_left b)

/-- Zero bytes before the first other byte leave the remainder 0. -/
theorem foldl_crcByte_replicate_zero (k : Nat) : (List.replicate k 0x00#8).foldl crcByte 0x0000#16 = 0x0000#16 := by
  induction k with
  | zero => rfl
  | succ k ih => exact ih

/-! ### The accelerator reading (R131) -/

/-- The bits of a reversed value (R131). -/
theorem getLsbD_reverseBits {n i : Nat} (v : BitVec n) (h : i < n) :
    (reverseBits v).getLsbD i = v.getLsbD (n - 1 - i) := by
  rw [reverseBits, BitVec.getLsbD_reverse, BitVec.getMsbD, decide_eq_true h, Bool.true_and]

theorem reverseBits_xor {n : Nat} (x y : BitVec n) : reverseBits (x ^^^ y) = reverseBits x ^^^ reverseBits y := by
  apply BitVec.eq_of_getLsbD_eq
  simp [reverseBits, BitVec.getLsbD_reverse]

/-- Shifting left and then reversing is reversing and then shifting right. -/
theorem reverseBits_shiftLeft_one {n : Nat} (x : BitVec n) : reverseBits (x <<< 1) = reverseBits x >>> 1 := by
  apply BitVec.eq_of_getLsbD_eq
  simp [reverseBits, BitVec.getLsbD_reverse, Nat.add_comm]

/-- A byte at the top of the register, reversed, is the reversed byte at its bottom. -/
theorem reverseBits_byte_at_top (b : Byte) : reverseBits (b.setWidth 16 <<< 8) = (reverseBits b).setWidth 16 := by
  apply BitVec.eq_of_getLsbD_eq
  intro i hi
  rw [getLsbD_reverseBits _ hi, BitVec.getLsbD_shiftLeft, BitVec.getLsbD_setWidth, BitVec.getLsbD_setWidth]
  by_cases h : i < 8
  · rw [getLsbD_reverseBits b h]
    simp [hi, show ¬ 15 - i < 8 by omega, show 15 - i - 8 = 7 - i by omega, show 15 - i < 16 by omega,
      show 7 - i < 16 by omega]
  · rw [(reverseBits b).getLsbD_of_ge i (by omega)]
    simp [show 15 - i < 8 by omega]

/-- The two registers shift in mirror image. -/
theorem crcReflShift_reverseBits (r : BitVec 16) : crcReflShift (reverseBits r) = reverseBits (crcShift r) := by
  have hbit : (reverseBits r).getLsbD 0 = r.getLsbD 15 := getLsbD_reverseBits r (by decide)
  have hpoly : reverseBits 0x3D65#16 = 0xA6BC#16 := by decide
  unfold crcReflShift crcShift
  rw [hbit]
  split
  · rw [reverseBits_xor, reverseBits_shiftLeft_one, hpoly]
  · rw [reverseBits_shiftLeft_one]

/-- The two registers take in a byte in mirror image. -/
theorem crcReflByte_reverseBits (r : BitVec 16) (b : Byte) :
    crcReflByte (reverseBits r) b = reverseBits (crcByte r b) := by
  have hshifts : Function.Semiconj reverseBits crcShift crcReflShift := fun v => (crcReflShift_reverseBits v).symm
  rw [crcReflByte, crcByte, times_eq_iterate, times_eq_iterate, (hshifts.iterate_right 8).eq, reverseBits_xor,
    reverseBits_byte_at_top]

/-- Settles O35: the remainders of the two readings are mirror images after every byte. -/
theorem crcReflectedReadingAgrees : Obligations.CrcReflectedReadingAgrees := by
  unfold Obligations.CrcReflectedReadingAgrees
  intro x
  have hfold : x.foldl crcReflByte (reverseBits 0x0000#16) = reverseBits (x.foldl crcByte 0x0000#16) :=
    List.foldl_hom reverseBits crcReflByte_reverseBits
  have hback (r : BitVec 16) : reverseBits (reverseBits r) = r := BitVec.reverse_reverse_eq
  have hzero : reverseBits 0x0000#16 = 0x0000#16 := by decide
  rw [hzero] at hfold
  rw [crc16Refl, crc16, hfold, hback]

/-! ### The CRC of a sequence -/

/-- Settles O36: the remainder before `z` differs with the byte, and the bytes of `z` keep it different. -/
theorem crcTellsOneByteApart : Obligations.CrcTellsOneByteApart := by
  unfold Obligations.CrcTellsOneByteApart
  intro x z b c hne h
  have hfold := (BitVec.xor_left_inj _).mp h
  rw [List.foldl_append, List.foldl_append] at hfold
  exact hne (crcByte_injective_right _ (foldl_crcByte_injective z hfold))

/-- Settles O34: CRC16 makes its one check and returns the CRC. -/
theorem crc16ReturnsTheCrc : Obligations.Crc16ReturnsTheCrc := by
  unfold Obligations.Crc16ReturnsTheCrc
  refine ⟨rfl, rfl, fun k x => ?_, fun s => ?_⟩
  · rw [crc16, List.foldl_append, foldl_crcByte_replicate_zero, crc16]
  · have hexec : exec .crc16 s = .next (s.checked [(!s.inBuf s.a.r0 s.a.r1.toNat, .outOfRange)] fun _ => s.done
        { r0 := BitVec.ofNat 32 (crc16 (s.memRead s.a.r0.toNat s.a.r1.toNat)).toNat }) := by
      rw [BitVec.ofNat_toNat]
      rfl
    refine failsWith_or_of_check hexec ⟨rfl, rfl, rfl⟩ ?_ fun hexec _ => completesSilently_of_done hexec
    rw [Bool.not_eq_true', Bool.eq_false_iff, Ne, s.inBuf_iff, not_or, Classical.not_and_iff_not_or_not, not_ne_iff,
      Nat.not_le]

end Sys2Proof.Machine

/-! The block segmentation (R134, R135): where each block of a frame begins and ends, and `WithCrc` cut at any of its
blocks. -/

namespace Sys2Proof.Machine

/-! ### The blocks of a frame (R134) -/

/-- The place of a frame's block `j`: its first byte. -/
def blockStart (j : Nat) : Nat := if j = 0 then 0 else 10 + 16 * (j - 1)

/-- The end of block `j` of a frame of `n` bytes: the place after its last byte. -/
def blockStop (n j : Nat) : Nat := min n (10 + 16 * j)

/-- The number of blocks as the rule gives it (R134). -/
theorem numBlocks_eq (n : Nat) : numBlocks n = if n ≤ 10 then 1 else 1 + (n - 10 + 15) / 16 := by
  unfold numBlocks blocks
  split
  case isTrue => rfl
  case isFalse =>
    dsimp only
    split <;> simp <;> omega

/-- A frame's block begins no later than it ends. -/
theorem blockStart_le_blockStop {n j : Nat} (h : j < numBlocks n) : blockStart j ≤ blockStop n j := by
  rw [numBlocks_eq] at h
  unfold blockStart blockStop
  split_ifs at * <;> omega

/-- The blocks before block `j` end where it begins. -/
theorem sum_take_blocks {n j : Nat} (h : j < numBlocks n) : ((blocks n).take j).sum = blockStart j := by
  rw [numBlocks_eq] at h
  unfold blocks
  cases j with
  | zero => rfl
  | succ i =>
    have hlong : ¬ n ≤ 10 := fun hn => by rw [if_pos hn] at h; omega
    rw [if_neg hlong] at h ⊢
    dsimp only
    rw [List.take_succ_cons, List.sum_cons, List.take_append_of_le_length (by simp; omega), List.take_replicate,
      List.sum_replicate_nat, Nat.min_eq_left (by omega), blockStart, if_neg (Nat.succ_ne_zero i)]
    omega

/-- A frame's block is as long as from its begin to its end. -/
theorem getElem_blocks {n j : Nat} (h : j < (blocks n).length) : (blocks n)[j] = blockStop n j - blockStart j := by
  have hj : j < numBlocks n := h
  have hsum := sum_take_blocks hj
  by_cases hlast : j + 1 < numBlocks n
  · have hnext := sum_take_blocks hlast
    rw [List.sum_take_succ _ _ h, hsum] at hnext
    rw [numBlocks_eq] at hlast
    unfold blockStart blockStop at *
    split_ifs at * <;> omega
  · have hall : (blocks n).take (j + 1) = blocks n := List.take_of_length_le (Nat.not_lt.mp hlast)
    have hend := sum_blocks n
    rw [← hall, List.sum_take_succ _ _ h, hsum] at hend
    rw [numBlocks_eq] at hlast hj
    unfold blockStart blockStop at *
    split_ifs at * <;> omega

/-! ### A sequence with its block CRCs (R135) -/

/-- A block followed by its CRC. -/
def codedBlock (d : List Byte) : List Byte := d ++ crcBytes d

@[simp] theorem length_codedBlock (d : List Byte) : (codedBlock d).length = d.length + 2 := by simp [codedBlock]

theorem withCrcBlocks_cons (k : Nat) (ks : List Nat) (x : List Byte) :
    withCrcBlocks (k :: ks) x = codedBlock (x.take k) ++ withCrcBlocks ks (x.drop k) := rfl

/-- Blocks cut from a sequence, then more blocks cut from the rest. -/
theorem withCrcBlocks_append (ks ls : List Nat) (x : List Byte) :
    withCrcBlocks (ks ++ ls) x = withCrcBlocks ks x ++ withCrcBlocks ls (x.drop ks.sum) := by
  induction ks generalizing x with
  | nil => rfl
  | cons k ks ih =>
    rw [List.cons_append, withCrcBlocks_cons, ih, withCrcBlocks_cons, List.drop_drop, List.sum_cons,
      List.append_assoc]

/-- The length of some blocks of a sequence with their CRCs, when the sequence holds them. -/
theorem length_withCrcBlocks_of_le (ks : List Nat) (x : List Byte) (h : ks.sum ≤ x.length) :
    (withCrcBlocks ks x).length = ks.sum + 2 * ks.length := by
  induction ks generalizing x with
  | nil => rfl
  | cons k ks ih =>
    rw [List.sum_cons] at h
    rw [withCrcBlocks_cons, List.length_append, length_codedBlock, List.length_take,
      ih _ (by rw [List.length_drop]; omega), List.sum_cons, List.length_cons]
    omega

/-- The length of a frame with its block CRCs. -/
theorem length_withCrc (x : List Byte) : (withCrc x).length = x.length + 2 * numBlocks x.length :=
  length_withCrcBlocks _ _ (sum_blocks _)

/-! ### A frame cut at one of its blocks -/

/-- The bytes of block `j` of a frame. -/
def blockData (x : List Byte) (j : Nat) : List Byte :=
  (x.drop (blockStart j)).take (blockStop x.length j - blockStart j)

theorem length_blockData (x : List Byte) (j : Nat) :
    (blockData x j).length = blockStop x.length j - blockStart j := by
  have hstop : blockStop x.length j ≤ x.length := Nat.min_le_left _ _
  rw [blockData, List.length_take, List.length_drop]
  omega

section
variable {x : List Byte} {j : Nat}

/-- The block lengths of a frame, cut at block `j`. -/
theorem blocks_split (h : j < numBlocks x.length) :
    blocks x.length = (blocks x.length).take j ++ (blockData x j).length :: (blocks x.length).drop (j + 1) := by
  have hlist : j < (blocks x.length).length := h
  rw [length_blockData, ← getElem_blocks hlist, ← List.drop_eq_getElem_cons, List.take_append_drop]

/-- A frame with its block CRCs, cut at block `j`. -/
theorem withCrc_split (h : j < numBlocks x.length) :
    withCrc x = withCrcBlocks ((blocks x.length).take j) x ++ (codedBlock (blockData x j) ++
      withCrcBlocks ((blocks x.length).drop (j + 1)) (x.drop (blockStart j + (blockData x j).length))) := by
  have hdata : (x.drop (blockStart j)).take (blockData x j).length = blockData x j := by
    rw [length_blockData, blockData]
  rw [withCrc]
  conv_lhs => rw [blocks_split h]
  rw [withCrcBlocks_append, withCrcBlocks_cons, sum_take_blocks h, hdata, List.drop_drop]

/-- The blocks before block `j` take up their bytes and two for each CRC. -/
theorem length_withCrcBlocks_take (h : j < numBlocks x.length) :
    (withCrcBlocks ((blocks x.length).take j) x).length = blockStart j + 2 * j := by
  have hstop : blockStop x.length j ≤ x.length := Nat.min_le_left _ _
  have hstart := blockStart_le_blockStop h
  have hcount : ((blocks x.length).take j).length = j := List.length_take_of_le (Nat.le_of_lt h)
  rw [length_withCrcBlocks_of_le _ _ (by rw [sum_take_blocks h]; omega), sum_take_blocks h, hcount]

/-- A byte of a block or of its CRC stands after the blocks before. -/
theorem getD_withCrc (h : j < numBlocks x.length) {i : Nat} (hi : i < (codedBlock (blockData x j)).length) :
    (withCrc x).getD (blockStart j + 2 * j + i) 0#8 = (codedBlock (blockData x j)).getD i 0#8 := by
  have hbefore := length_withCrcBlocks_take h
  rw [withCrc_split h, List.getD_append_right _ _ _ _ (by omega), hbefore, Nat.add_sub_cancel_left,
    List.getD_append _ _ _ _ hi]

end

/-- The block that holds byte `k` of a frame. -/
def blockOfByte (k : Nat) : Nat := if k < 10 then 0 else 1 + (k - 10) / 16

/-- A byte of a frame stands in its block. -/
theorem blockOfByte_bounds {n k : Nat} (h : k < n) :
    blockOfByte k < numBlocks n ∧ blockStart (blockOfByte k) ≤ k ∧ k < blockStop n (blockOfByte k) := by
  rw [numBlocks_eq]
  unfold blockOfByte blockStart blockStop
  split_ifs <;> omega

/-- The byte of a block is the byte of the frame. -/
theorem getD_blockData {x : List Byte} {j k : Nat} (hstart : blockStart j ≤ k) (hstop : k < blockStop x.length j) :
    (blockData x j).getD (k - blockStart j) 0#8 = x.getD k 0#8 := by
  rw [blockData, List.getD_eq_getElem?_getD, List.getElem?_take_of_lt (by omega), List.getElem?_drop,
    Nat.add_sub_cancel' hstart, List.getD_eq_getElem?_getD]

/-- The first byte after a block is the high byte of its CRC. -/
theorem getD_codedBlock_high (d : List Byte) :
    (codedBlock d).getD d.length 0#8 = BitVec.ofNat 8 ((crc16 d).toNat / 256) := by
  rw [codedBlock, List.getD_append_right _ _ _ _ (Nat.le_refl _), Nat.sub_self]
  apply BitVec.eq_of_toNat_eq
  simp [crcBytes, Nat.shiftRight_eq_div_pow]

/-- The second byte after a block is the low byte of its CRC. -/
theorem getD_codedBlock_low (d : List Byte) :
    (codedBlock d).getD (d.length + 1) 0#8 = BitVec.ofNat 8 (crc16 d).toNat := by
  rw [codedBlock, List.getD_append_right _ _ _ _ (Nat.le_add_right _ 1), Nat.add_sub_cancel_left]
  apply BitVec.eq_of_toNat_eq
  simp [crcBytes]

/-- Settles O37, by cutting the frame at the block that the byte belongs to. -/
theorem withCrcLayout : Obligations.WithCrcLayout := by
  unfold Obligations.WithCrcLayout
  intro x _ blocksOf start stop
  have hblocks : numBlocks x.length = blocksOf := numBlocks_eq x.length
  refine ⟨hblocks ▸ length_withCrc x, fun k hk => ?_, fun j hj => ?_⟩
  · obtain ⟨hj, hstart, hstop⟩ := blockOfByte_bounds hk
    have hdata := length_blockData x (blockOfByte k)
    have hplace : k + 2 * blockOfByte k =
        blockStart (blockOfByte k) + 2 * blockOfByte k + (k - blockStart (blockOfByte k)) := by omega
    change (withCrc x).getD (k + 2 * blockOfByte k) 0#8 = _
    rw [hplace, getD_withCrc hj (by rw [length_codedBlock]; omega), codedBlock,
      List.getD_append _ _ _ _ (by omega), getD_blockData hstart hstop]
  · rw [← hblocks] at hj
    have hdata := length_blockData x j
    have hstart := blockStart_le_blockStop hj
    have hplace : stop j + 2 * j = blockStart j + 2 * j + (blockData x j).length := by
      change blockStop x.length j + 2 * j = _
      omega
    have hcoded := length_codedBlock (blockData x j)
    rw [hplace, getD_withCrc hj (by omega), getD_codedBlock_high, Nat.add_assoc _ _ 1, getD_withCrc hj (by omega),
      getD_codedBlock_low]
    exact ⟨rfl, rfl⟩

end Sys2Proof.Machine

/-! Decoding of a stream of codes (R147, R148): the codes of a byte sequence decode to it, a block whose CRC matches is
taken over and the next one follows, and one byte replaced in a block with its CRC is a mismatch (R150(b)). -/

namespace Sys2Proof.Machine

/-! ### Codes and their bits (R140 to R142) -/

/-- The table's inverse reads back every nibble (R141). -/
theorem inv3of6_t3of6 (n : BitVec 4) : inv3of6 (t3of6 n) = some n := by
  revert n
  decide

/-- Bits read after bits already read (R8). -/
theorem foldl_msbFirst (n : Nat) (v : BitVec n) (acc : Nat) :
    (msbFirst n v).foldl (fun a b => 2 * a + b.toNat) acc = 2 ^ n * acc + v.toNat := by
  induction n generalizing acc with
  | zero => simp [msbFirst, BitVec.of_length_zero]
  | succ n ih =>
    have hbit : v.toNat = 2 ^ n * (v.getLsbD n).toNat + v.toNat % 2 ^ n := by
      rw [BitVec.getLsbD, Nat.toNat_testBit]
      have hlt := v.isLt
      rw [Nat.pow_succ] at hlt
      rw [Nat.mod_eq_of_lt (Nat.div_lt_of_lt_mul hlt), Nat.div_add_mod]
    rw [msbFirst, List.foldl_cons, ih, BitVec.toNat_setWidth, Nat.mul_add, Nat.pow_succ, Nat.mul_assoc, Nat.add_assoc,
      ← hbit]

/-- The bits of a value read back as the value (R8). -/
theorem fromMsbFirst_msbFirst (n : Nat) (v : BitVec n) : fromMsbFirst (msbFirst n v) = v.toNat := by
  rw [fromMsbFirst, foldl_msbFirst, Nat.mul_zero, Nat.zero_add]

/-- The code bits of two nibbles (R142). -/
theorem codeBits_append (hi lo : BitVec 4) :
    codeBits (hi ++ lo) = msbFirst 6 (t3of6 hi) ++ msbFirst 6 (t3of6 lo) := by
  have hhigh : (hi ++ lo).extractLsb' 4 4 = hi := BitVec.extractLsb'_append_eq_left
  have hlow : (hi ++ lo).extractLsb' 0 4 = lo := BitVec.extractLsb'_append_eq_right
  exact congrArg₂ (fun h l => msbFirst 6 (t3of6 h) ++ msbFirst 6 (t3of6 l)) hhigh hlow

/-- A byte is its two nibbles. -/
theorem exists_nibbles (b : Byte) : ∃ hi lo : BitVec 4, b = hi ++ lo := by
  have hjoin : b.extractLsb' 4 4 ++ b.extractLsb' 0 4 = b.extractLsb' 0 8 :=
    BitVec.extractLsb'_append_extractLsb'_eq_extractLsb' rfl
  exact ⟨_, _, BitVec.extractLsb'_eq_self.symm.trans hjoin.symm⟩

theorem codeStream_append (v w : List Byte) : codeStream (v ++ w) = codeStream v ++ codeStream w :=
  List.flatMap_append

theorem codeStream_cons (b : Byte) (w : List Byte) : codeStream (b :: w) = codeBits b ++ codeStream w :=
  List.flatMap_cons

/-! ### One code of a stream -/

section
variable {bits pre post : List Bool} {j : Nat} {v : BitVec 6}

/-- Code `j` of a stream is the one that stands after `6 * j` bits (R148). -/
theorem streamCode_of_split (hbits : bits = pre ++ (msbFirst 6 v ++ post)) (hpre : pre.length = 6 * j) :
    streamCode bits j = v := by
  rw [streamCode, hbits, List.drop_left' hpre, List.take_left' (length_msbFirst 6 v), fromMsbFirst_msbFirst,
    BitVec.ofNat_toNat, BitVec.setWidth_eq]

/-- A stream with code `j` replaced keeps the bits before and after it. -/
theorem replaceCode_of_split (hbits : bits = pre ++ (msbFirst 6 v ++ post)) (hpre : pre.length = 6 * j)
    (m : List Bool) : bits.take (6 * j) ++ m ++ bits.drop (6 * j + 6) = pre ++ (m ++ post) := by
  rw [hbits, List.take_left' hpre, ← List.drop_drop, List.drop_left' hpre, List.drop_left' (length_msbFirst 6 v),
    List.append_assoc]

end

/-- Replacing one code of a stream by another code of the table replaces the byte it belongs to by another byte. -/
theorem exists_set_of_replaceCode {w : List Byte} {j : Nat} {c : BitVec 4} (hj : j < 2 * w.length)
    (hc : t3of6 c ≠ streamCode (codeStream w) j) :
    ∃ b, w[j / 2]? ≠ some b ∧
      (codeStream w).take (6 * j) ++ msbFirst 6 (t3of6 c) ++ (codeStream w).drop (6 * j + 6) =
        codeStream (w.set (j / 2) b) := by
  have hlt : j / 2 < w.length := by omega
  obtain ⟨hi, lo, hbyte⟩ := exists_nibbles w[j / 2]
  have hpre : (codeStream (w.take (j / 2))).length = 12 * (j / 2) := by
    rw [length_codeStream, List.length_take_of_le (Nat.le_of_lt hlt)]
  have hset (b : Byte) : codeStream (w.set (j / 2) b) =
      codeStream (w.take (j / 2)) ++ (codeBits b ++ codeStream (w.drop (j / 2 + 1))) := by
    rw [List.set_eq_take_append_cons_drop, if_pos hlt, codeStream_append, codeStream_cons]
  have hw : codeStream w = codeStream (w.take (j / 2)) ++
      (msbFirst 6 (t3of6 hi) ++ (msbFirst 6 (t3of6 lo) ++ codeStream (w.drop (j / 2 + 1)))) := by
    rw [← List.append_assoc (msbFirst 6 (t3of6 hi)), ← codeBits_append, ← hbyte, ← hset,
      List.set_getElem_self]
  have hother {b : Byte} (hne : b ≠ hi ++ lo) : w[j / 2]? ≠ some b := by
    rw [List.getElem?_eq_getElem hlt, hbyte]
    exact fun h => hne (Option.some.inj h).symm
  rcases Nat.mod_two_eq_zero_or_one j with heven | hodd
  · have hlength : (codeStream (w.take (j / 2))).length = 6 * j := by omega
    refine ⟨c ++ lo, hother fun h => hc ?_, ?_⟩
    · rw [streamCode_of_split hw hlength, (BitVec.append_left_inj _).mp h]
    · rw [replaceCode_of_split hw hlength, hset, codeBits_append, List.append_assoc]
  · rw [← List.append_assoc] at hw
    have hlength : (codeStream (w.take (j / 2)) ++ msbFirst 6 (t3of6 hi)).length = 6 * j := by
      rw [List.length_append, hpre, length_msbFirst]
      omega
    refine ⟨hi ++ c, hother fun h => hc ?_, ?_⟩
    · rw [streamCode_of_split hw hlength, (BitVec.append_right_inj _).mp h]
    · rw [replaceCode_of_split hw hlength, hset, codeBits_append, List.append_assoc, List.append_assoc]

/-! ### Decoding bytes (R148) -/

/-- The twelve bits of a byte decode to it. -/
theorem decodeByte_codeBits (b : Byte) (bs : List Bool) : decodeByte (codeBits b ++ bs) = some b := by
  obtain ⟨hi, lo, rfl⟩ := exists_nibbles b
  rw [decodeByte, codeBits_append, List.append_assoc, List.take_left' (length_msbFirst 6 _),
    List.drop_left' (length_msbFirst 6 _), List.take_left' (length_msbFirst 6 _), fromMsbFirst_msbFirst,
    fromMsbFirst_msbFirst, BitVec.ofNat_toNat, BitVec.ofNat_toNat, BitVec.setWidth_eq, BitVec.setWidth_eq,
    inv3of6_t3of6, inv3of6_t3of6]

/-- The stream of a byte sequence decodes to it, whatever follows. -/
theorem decodeBytes_codeStream (r : List Byte) (bs : List Bool) :
    decodeBytes r.length (codeStream r ++ bs) = some r := by
  induction r with
  | nil => rfl
  | cons b r ih =>
    rw [List.length_cons, decodeBytes, codeStream_cons, List.append_assoc, decodeByte_codeBits,
      List.drop_left' (length_codeBits b), ih]

/-! ### Decoding a block (R148) -/

/-- The two bytes of a CRC are its value, high byte first (R135). -/
theorem toNat_crc16_eq_iff (d : List Byte) (h l : Byte) :
    (crc16 d).toNat = h.toNat * 256 + l.toNat ↔ [h, l] = crcBytes d := by
  have hcrc := (crc16 d).isLt
  have hl := l.isLt
  simp only [crcBytes, List.cons.injEq, and_true, ← BitVec.toNat_inj, toNat_extractLsb']
  omega

/-- The check of a block passes exactly when its last two bytes are the CRC of those before. -/
theorem crcCheck_iff {r : List Byte} {k : Nat} (h : r.length = k + 2) :
    (crc16 (r.take k)).toNat = (byteAt r k).toNat * 256 + (byteAt r (k + 1)).toNat ↔
      r = codedBlock (r.take k) := by
  have hdrop : r.drop k = [byteAt r k, byteAt r (k + 1)] := by
    rw [List.drop_eq_getElem_cons (by omega), List.drop_eq_getElem_cons (by omega), List.drop_of_length_le (by omega),
      byteAt, byteAt, List.getD_eq_getElem _ _ (by omega), List.getD_eq_getElem _ _ (by omega)]
  rw [toNat_crc16_eq_iff, ← hdrop, codedBlock]
  conv_rhs => lhs; rw [← List.take_append_drop k r]
  exact (List.append_right_inj _).symm

section
variable {k b : Nat} {ks : List Nat} {r : List Byte} {bs : List Bool}

/-- A block of valid codes whose last two bytes are not its CRC ends the decoding. -/
theorem decodeBlocks_of_mismatch (hlen : r.length = k + 2) (hcrc : r ≠ codedBlock (r.take k)) :
    decodeBlocks (k :: ks) b (codeStream r ++ bs) = ⟨[], b, some (.crcMismatch b)⟩ := by
  rw [decodeBlocks, ← hlen, decodeBytes_codeStream]
  exact if_pos (mt (crcCheck_iff hlen).mp hcrc)

/-- A block followed by its CRC is taken over, and the decoding goes on. -/
theorem decodeBlocks_codedBlock (d : List Byte) :
    decodeBlocks (d.length :: ks) b (codeStream (codedBlock d) ++ bs) =
      ⟨d ++ (decodeBlocks ks (b + 1) bs).bytes, (decodeBlocks ks (b + 1) bs).verified,
        (decodeBlocks ks (b + 1) bs).failure⟩ := by
  have hlen := length_codedBlock d
  have htake : (codedBlock d).take d.length = d := List.take_left
  have hbits : (codeStream (codedBlock d)).length = 12 * (d.length + 2) := by rw [length_codeStream, hlen]
  have hcheck := (crcCheck_iff hlen).mpr (by rw [htake])
  rw [decodeBlocks, ← hlen, decodeBytes_codeStream, hlen]
  dsimp only
  rw [if_neg (not_not_intro hcheck), htake, List.drop_left' hbits]

end

/-- Blocks with their CRCs are taken over, and the decoding goes on after them. -/
theorem decodeBlocks_withCrcBlocks (ks ls : List Nat) (b : Nat) (x : List Byte) (bs : List Bool)
    (h : ks.sum ≤ x.length) :
    decodeBlocks (ks ++ ls) b (codeStream (withCrcBlocks ks x) ++ bs) =
      ⟨x.take ks.sum ++ (decodeBlocks ls (b + ks.length) bs).bytes, (decodeBlocks ls (b + ks.length) bs).verified,
        (decodeBlocks ls (b + ks.length) bs).failure⟩ := by
  induction ks generalizing b x with
  | nil => rfl
  | cons k ks ih =>
    rw [List.sum_cons] at h
    have hlen : (x.take k).length = k := List.length_take_of_le (by omega)
    have hfirst := decodeBlocks_codedBlock (ks := ks ++ ls) (b := b)
      (bs := codeStream (withCrcBlocks ks (x.drop k)) ++ bs) (x.take k)
    rw [hlen, ih (b + 1) (x.drop k) (by rw [List.length_drop]; omega)] at hfirst
    rw [List.cons_append, withCrcBlocks_cons, codeStream_append, List.append_assoc, hfirst, List.sum_cons,
      List.take_add, List.append_assoc, List.length_cons, Nat.add_assoc b 1, Nat.add_comm 1]

/-! ### A byte replaced in a block with its CRC -/

theorem crcBytes_inj {d e : List Byte} (h : crcBytes d = crcBytes e) : crc16 d = crc16 e := by
  have hd := (toNat_crc16_eq_iff d _ _).mpr rfl
  exact BitVec.eq_of_toNat_eq (hd.trans ((toNat_crc16_eq_iff e _ _).mpr h).symm)

/-- A block with its CRC, with one byte replaced by another, is no block with its CRC: neither a byte of the block nor
one of the CRC can be replaced alone. -/
theorem codedBlock_set_ne {d e : List Byte} {i : Nat} {b : Byte} (hlen : e.length = d.length)
    (hi : i < (codedBlock d).length) (hb : (codedBlock d)[i]? ≠ some b) :
    (codedBlock d).set i b ≠ codedBlock e := by
  intro h
  rw [codedBlock] at hb h
  by_cases hdata : i < d.length
  · rw [List.set_append_left _ _ hdata] at h
    obtain ⟨hset, hcrc⟩ := List.append_inj h (by rw [List.length_set, hlen])
    rw [List.getElem?_append_left hdata, List.getElem?_eq_getElem hdata] at hb
    have hcut : d = d.take i ++ d[i] :: d.drop (i + 1) := by
      rw [← List.drop_eq_getElem_cons, List.take_append_drop]
    rw [List.set_eq_take_append_cons_drop, if_pos hdata] at hset
    have hne : d[i] ≠ b := fun heq => hb (congrArg some heq)
    refine crcTellsOneByteApart (d.take i) (d.drop (i + 1)) d[i] b hne ?_
    rw [hset, ← hcut]
    exact crcBytes_inj hcrc
  · rw [List.set_append_right _ _ (Nat.not_lt.mp hdata)] at h
    obtain ⟨rfl, hcrc⟩ := List.append_inj h hlen.symm
    have hplace : i - d.length < (crcBytes d).length := by
      rw [length_codedBlock] at hi
      rw [length_crcBytes]
      omega
    rw [List.getElem?_append_right (Nat.not_lt.mp hdata), ← hcrc, List.getElem?_set_self hplace] at hb
    exact hb rfl

/-! ### A byte replaced in a frame with its block CRCs -/

/-- A coded byte of a frame stands in the block that its bits belong to. -/
theorem blockOfBit_bounds {n p : Nat} (h : p / 12 < n + 2 * numBlocks n) :
    blockOfBit p < numBlocks n ∧ blockStart (blockOfBit p) + 2 * blockOfBit p ≤ p / 12 ∧
      p / 12 < blockStop n (blockOfBit p) + 2 * blockOfBit p + 2 := by
  rw [numBlocks_eq] at *
  unfold blockOfBit blockStart blockStop
  split_ifs at * <;> omega

/-- Decoding a frame with one byte replaced ends at the block that holds the byte, with a CRC mismatch. -/
theorem failure_decodeBlocks_set {x : List Byte} {p : Nat} {b : Byte} (hp : p / 12 < (withCrc x).length)
    (hb : (withCrc x)[p / 12]? ≠ some b) (bs : List Bool) :
    (decodeBlocks (blocks x.length) 0 (codeStream ((withCrc x).set (p / 12) b) ++ bs)).failure =
      some (.crcMismatch (blockOfBit p)) := by
  rw [length_withCrc] at hp
  obtain ⟨hblock, hfirst, hlast⟩ := blockOfBit_bounds hp
  generalize p / 12 = i at *
  generalize blockOfBit p = j at *
  have hbefore := length_withCrcBlocks_take hblock
  have hdata := length_blockData x j
  have hcoded := length_codedBlock (blockData x j)
  have hstart := blockStart_le_blockStop hblock
  have hstop : blockStop x.length j ≤ x.length := Nat.min_le_left _ _
  have hcount : ((blocks x.length).take j).length = j := List.length_take_of_le (Nat.le_of_lt hblock)
  have hi : i - (blockStart j + 2 * j) < (codedBlock (blockData x j)).length := by omega
  rw [withCrc_split hblock, List.getElem?_append_right (by omega), hbefore, List.getElem?_append_left hi] at hb
  rw [withCrc_split hblock, List.set_append_right _ _ (by omega), hbefore, List.set_append_left _ _ hi,
    codeStream_append, codeStream_append, List.append_assoc, List.append_assoc]
  conv_lhs => arg 1; arg 1; rw [blocks_split hblock]
  rw [decodeBlocks_withCrcBlocks _ _ _ _ _ (by rw [sum_take_blocks hblock]; omega), hcount, Nat.zero_add,
    decodeBlocks_of_mismatch (by rw [List.length_set, hcoded])]
  refine codedBlock_set_ne ?_ hi hb
  exact List.length_take_of_le (by rw [List.length_set, hcoded]; omega)

/-! ### PHY_DECODE past its checks (R148) -/

/-- `DecLen` undoes `EncLen` for frames of 1..256 bytes (R147). -/
theorem decLen_encLen {n : Nat} (hmin : 1 ≤ n) (hmax : n ≤ 256) : decLen (encLen n) = some n := by
  rw [encLen, numBlocks_eq]
  generalize hN : n + 2 * (if n ≤ 10 then 1 else 1 + (n - 10 + 15) / 16) = N
  have hcodes : 3 ≤ N := by split at hN <;> omega
  have hwhole : (3 * N / 2) % 3 ≠ 2 := by omega
  have hback : (if (3 * N / 2) % 3 = 0 then 2 * (3 * N / 2 / 3) else 2 * (3 * N / 2 / 3) + 1) = N := by
    split <;> omega
  have hlast : ¬ (12 < N ∧ 0 < (N - 12) % 18 ∧ (N - 12) % 18 < 3) := by
    split at hN <;> omega
  have hlen : (if N ≤ 12 then N - 2 else if (N - 12) % 18 = 0 then 10 + 16 * ((N - 12) / 18)
      else 10 + 16 * ((N - 12) / 18) + ((N - 12) % 18 - 2)) = n := by
    split at hN <;> split_ifs <;> omega
  rw [decLen, if_neg (Nat.not_lt.mpr (Nat.le_add_left 1 _))]
  dsimp only
  rw [Nat.add_sub_cancel, if_neg hwhole, hback, if_neg (Nat.not_lt.mpr hcodes), if_neg hlast, hlen,
    if_neg (Nat.not_lt.mpr hmax)]

/-- A state ready for a frame passes every check. -/
theorem exec_phyDecode_of_ready {s : State} {n : Nat} (h : PhyDecodeReady s n) :
    exec .phyDecode s = .next (phyDecodeEffect s (phyOperands s.a) n) := by
  obtain ⟨hvalid, hmode, hmin, hmax, hlen, hsrc, hdst, hapart, hcap⟩ := h
  have hdec : decLen (phyOperands s.a).len.toNat = some n := by
    change decLen s.a.r1.toNat = some n
    rw [hlen, decLen_encLen hmin hmax]
  have hmeter : ¬ s.mode ≠ tMeter := not_not_intro hmode
  have hexec : exec .phyDecode s = execPhyDecode s := rfl
  have hranges : (!s.inBuf s.a.r0 s.a.r1.toNat || !s.inBuf s.a.r2 s.a.r3.toNat) = false := by rw [hsrc, hdst]; rfl
  have hfits : decide (s.a.r3.toNat < n) = false := decide_eq_false (Nat.not_lt.mpr hcap)
  rw [hexec, execPhyDecode, hdec, hvalid]
  simp only [if_neg hmeter, Bool.not_true, State.checked_false, State.checked_nil]
  refine congrArg _ (s.checked_of_pass _ _ ?_)
  simp only [List.forall_mem_cons]
  exact ⟨hranges, hapart, rfl, hfits, List.forall_mem_nil _⟩

/-- A decoding that ends with a failure reports it (R148, R220). -/
theorem phyDecodeEffect_of_failure {s : State} {n : Nat} {f : Failure}
    (h : (decodeBlocks (blocks n) 0 (encodedBits s)).failure = some f) :
    (phyDecodeEffect s (phyOperands s.a) n).status = statusWord f.status ∧
      (phyDecodeEffect s (phyOperands s.a) n).errinfo = f.errinfo := by
  have hfailure :
      (phyDecode n (s.memRead (phyOperands s.a).src.toNat (phyOperands s.a).len.toNat)).failure = some f := h
  simp only [phyDecodeEffect, hfailure]
  exact ⟨rfl, rfl⟩

/-- The block index of `ERRINFO` holds the block a CRC mismatch was found in (R25). -/
theorem errinfo_crcMismatch_toNat {b : Nat} (h : b < 2 ^ 16) :
    (Failure.crcMismatch b).errinfo.toNat = 256 * b + 2 := by
  rw [Failure.errinfo, errinfoWord_toNat, Failure.index, BitVec.toNat_ofNat, Nat.mod_eq_of_lt h]
  rfl

/-- Settles O45: the replaced code is a replaced byte, and the block that holds the byte fails its CRC. -/
theorem codeReplacementDetected : Obligations.CodeReplacementDetected := by
  unfold Obligations.CodeReplacementDetected
  intro s x j c hready hj hc hbits
  obtain ⟨b, hb, hset⟩ := exists_set_of_replaceCode hj hc
  have hplace : 6 * j / 12 = j / 2 := by omega
  have hp : 6 * j / 12 < (withCrc x).length := by omega
  have hindex : blockOfBit (6 * j) < 2 ^ 16 := by
    have hblock := (blockOfBit_bounds (length_withCrc x ▸ hp)).1
    obtain ⟨-, -, -, hmax, -⟩ := hready
    rw [numBlocks_eq] at hblock
    split at hblock <;> omega
  rw [hset, ← hplace] at hbits
  rw [← hplace] at hb
  have hfailure := failure_decodeBlocks_set hp hb ((encodedBits s).drop (12 * (withCrc x).length))
  rw [← hbits, List.take_append_drop] at hfailure
  obtain ⟨hstatus, herrinfo⟩ := phyDecodeEffect_of_failure hfailure
  refine ⟨_, exec_phyDecode_of_ready hready, hstatus, ?_⟩
  rw [herrinfo, errinfo_crcMismatch_toNat hindex]

end Sys2Proof.Machine

/-! The encoded stream (R142 to R145): the bits of a value, a stream packed into bytes and read back, and the encoded
form of a byte sequence as its codes and the postamble. -/

namespace Sys2Proof.Machine

/-! ### The bits of a value (R8) -/

/-- Bit `j` of a value written most significant bit first. -/
theorem getD_msbFirst {n j : Nat} (v : BitVec n) (h : j < n) : (msbFirst n v).getD j false = v.getLsbD (n - 1 - j) := by
  induction n generalizing j with
  | zero => omega
  | succ n ih =>
    cases j with
    | zero => rfl
    | succ j =>
      rw [msbFirst, List.getD_cons_succ, ih _ (by omega), BitVec.getLsbD_setWidth, decide_eq_true (by omega),
        Bool.true_and]
      congr 1
      omega

/-- Bits read after a number already read. -/
theorem foldl_fromMsbFirst (bs : List Bool) (acc : Nat) :
    bs.foldl (fun a b => 2 * a + b.toNat) acc = 2 ^ bs.length * acc + fromMsbFirst bs := by
  unfold fromMsbFirst
  induction bs generalizing acc with
  | nil => simp
  | cons c bs ih =>
    rw [List.foldl_cons, List.foldl_cons, ih, ih (2 * 0 + c.toNat), List.length_cons]
    ring

/-- A bit read before other bits counts for its place. -/
theorem fromMsbFirst_cons (b : Bool) (bs : List Bool) :
    fromMsbFirst (b :: bs) = 2 ^ bs.length * b.toNat + fromMsbFirst bs := by
  rw [fromMsbFirst, List.foldl_cons, foldl_fromMsbFirst, Nat.mul_zero, Nat.zero_add]

theorem fromMsbFirst_lt (bs : List Bool) : fromMsbFirst bs < 2 ^ bs.length := by
  induction bs with
  | nil => exact Nat.one_pos
  | cons b bs ih =>
    have hb := Nat.mul_le_mul_left (2 ^ bs.length) b.toNat_le
    rw [fromMsbFirst_cons, List.length_cons, Nat.pow_succ]
    omega

/-- The value of some bits has those bits. -/
theorem msbFirst_fromMsbFirst (bs : List Bool) :
    msbFirst bs.length (BitVec.ofNat bs.length (fromMsbFirst bs)) = bs := by
  induction bs with
  | nil => rfl
  | cons b bs ih =>
    have hlt := fromMsbFirst_lt bs
    rw [List.length_cons, msbFirst, fromMsbFirst_cons]
    congr 1
    · rw [BitVec.getLsbD_ofNat, decide_eq_true (Nat.lt_succ_self _), Bool.true_and, Nat.testBit_two_pow_mul_add _ hlt]
      cases b <;> simp
    · rw [BitVec.setWidth_ofNat_of_le (Nat.le_succ _)]
      conv_rhs => rw [← ih]
      congr 1
      apply BitVec.eq_of_toNat_eq
      simp

/-! ### Sequences laid out in chunks -/

/-- Place `j` of chunk `k`, when each item is laid out in `m` places. -/
theorem getD_flatMap_of_length {α β : Type} {f : α → List β} {m : Nat} (hf : ∀ a, (f a).length = m) (l : List α)
    {k j : Nat} (a : α) (d : β) (hk : k < l.length) (hj : j < m) :
    (l.flatMap f).getD (m * k + j) d = (f (l.getD k a)).getD j d := by
  induction l generalizing k with
  | nil => simp at hk
  | cons x l ih =>
    rw [List.flatMap_cons]
    cases k with
    | zero => rw [Nat.mul_zero, Nat.zero_add, List.getD_append _ _ _ _ (by rw [hf]; exact hj), List.getD_cons_zero]
    | succ k =>
      rw [List.getD_append_right _ _ _ _ (by rw [hf, Nat.mul_succ]; omega), hf, Nat.mul_succ,
        show m * k + m + j - m = m * k + j by omega, ih (by simpa using hk), List.getD_cons_succ]

theorem byteStream_append (e f : List Byte) : byteStream (e ++ f) = byteStream e ++ byteStream f := List.flatMap_append

@[simp] theorem length_byteStream (e : List Byte) : (byteStream e).length = 8 * e.length := by
  simp [byteStream, Nat.mul_comm]

/-- Stream bit `p` is bit `7 - p % 8` of byte `p / 8` (R148). -/
theorem getD_byteStream {e : List Byte} {p : Nat} (h : p < 8 * e.length) :
    (byteStream e).getD p false = (e.getD (p / 8) 0#8).getLsbD (7 - p % 8) := by
  have hbit := getD_flatMap_of_length (length_msbFirst 8) e (k := p / 8) 0#8 false (by omega)
    (Nat.mod_lt p (by decide))
  rw [Nat.div_add_mod, getD_msbFirst _ (Nat.mod_lt p (by decide))] at hbit
  exact hbit

/-- The codes of byte `k` of a sequence stand from stream bit `12 * k` on (R142). -/
theorem getD_codeStream {w : List Byte} {k j : Nat} (hk : k < w.length) (hj : j < 6) :
    (codeStream w).getD (12 * k + j) false = (t3of6 ((w.getD k 0#8).extractLsb' 4 4)).getLsbD (5 - j) ∧
      (codeStream w).getD (12 * k + 6 + j) false = (t3of6 ((w.getD k 0#8).extractLsb' 0 4)).getLsbD (5 - j) := by
  have hchunk {i : Nat} (hi : i < 12) := getD_flatMap_of_length length_codeBits w 0#8 false hk hi
  rw [codeStream, hchunk (by omega), Nat.add_assoc, hchunk (by omega), codeBits,
    List.getD_append _ _ _ _ (by rw [length_msbFirst]; exact hj),
    List.getD_append_right _ _ _ _ (by rw [length_msbFirst]; omega), length_msbFirst, Nat.add_sub_cancel_left,
    getD_msbFirst _ hj, getD_msbFirst _ hj]
  exact ⟨rfl, rfl⟩

/-! ### A stream packed into bytes (R142) -/

/-- The whole bytes of a stream hold its bits, but for a rest of fewer than 8. -/
theorem byteStream_packBytes (bs : List Bool) : byteStream (packBytes bs) = bs.take (8 * (bs.length / 8)) := by
  induction bs using packBytes.induct with
  | case1 b7 b6 b5 b4 b3 b2 b1 b0 rest ih =>
    have hbyte : msbFirst 8 (BitVec.ofNat 8 (fromMsbFirst [b7, b6, b5, b4, b3, b2, b1, b0])) =
        [b7, b6, b5, b4, b3, b2, b1, b0] :=
      msbFirst_fromMsbFirst [b7, b6, b5, b4, b3, b2, b1, b0]
    have hlen : 8 * ((b7 :: b6 :: b5 :: b4 :: b3 :: b2 :: b1 :: b0 :: rest).length / 8) =
        8 * (rest.length / 8) + 8 := by simp only [List.length_cons]; omega
    rw [packBytes, byteStream, List.flatMap_cons, hbyte, hlen]
    exact congrArg _ ih
  | case2 bs hshort =>
    have hnil : packBytes bs = [] := packBytes.eq_2 bs hshort
    have hlen := length_packBytes bs
    rw [hnil, List.length_nil] at hlen
    rw [hnil, ← hlen]
    rfl

/-- The last byte after an odd number of coded bytes begins with the four bits left over and ends with the nibble that
the last of them selects (R144). -/
theorem postambleHalf_spec (h : List Bool) (hlen : h.length = 4) :
    (msbFirst 8 (postambleHalf h)).take 4 = h ∧
      (postambleHalf h).extractLsb' 0 4 = if (postambleHalf h).getLsbD 4 = false then 0x5#4 else 0xA#4 := by
  match h, hlen with
  | [b3, b2, b1, b0], _ => revert b3 b2 b1 b0; decide

/-! ### The encoded form (R144, R145) -/

section
variable {w : List Byte}

/-- An even number of coded bytes fills whole bytes, and the postamble byte follows. -/
theorem encode3of6_of_even (h : w.length % 2 = 0) :
    encode3of6 w = packBytes (codeStream w) ++ [postambleByte ((packBytes (codeStream w)).getLastD 0#8)] := if_pos h

/-- An odd number of coded bytes leaves four bits over, which the last byte holds with the postamble nibble. -/
theorem encode3of6_of_odd (h : w.length % 2 = 1) :
    encode3of6 w = packBytes (codeStream w) ++ [postambleHalf ((codeStream w).drop (12 * w.length - 4))] :=
  if_neg (by omega)

theorem length_leftover (h : w.length % 2 = 1) : ((codeStream w).drop (12 * w.length - 4)).length = 4 := by
  rw [List.length_drop, length_codeStream]
  omega

/-- The leading bits of the encoded form are the codes of its bytes (R142, R145). -/
theorem take_byteStream_encode3of6 (w : List Byte) :
    (byteStream (encode3of6 w)).take (12 * w.length) = codeStream w := by
  have hbits := length_codeStream w
  rcases Nat.mod_two_eq_zero_or_one w.length with heven | hodd
  · rw [encode3of6_of_even heven, byteStream_append, byteStream_packBytes, hbits,
      show 8 * (12 * w.length / 8) = 12 * w.length by omega, ← hbits, List.take_length, List.take_left]
  · obtain ⟨hhalf, -⟩ := postambleHalf_spec _ (length_leftover hodd)
    have hlast : byteStream [postambleHalf ((codeStream w).drop (12 * w.length - 4))] =
        msbFirst 8 (postambleHalf ((codeStream w).drop (12 * w.length - 4))) := List.flatMap_singleton _ _
    have hcut : 8 * (12 * w.length / 8) = 12 * w.length - 4 := by omega
    have hwhole : ((codeStream w).take (12 * w.length - 4)).length = 12 * w.length - 4 :=
      List.length_take_of_le (by omega)
    rw [encode3of6_of_odd hodd, byteStream_append, byteStream_packBytes, hbits, hcut, hlast, List.take_append,
      hwhole, List.take_of_length_le (by omega), show 12 * w.length - (12 * w.length - 4) = 4 by omega, hhalf,
      List.take_append_drop]

/-- After an even number of coded bytes the last byte is the one that the last code bit selects (R144). -/
theorem encode3of6_postambleByte (h : w.length % 2 = 0) (hpos : 0 < w.length) :
    (encode3of6 w).getD ((encode3of6 w).length - 1) 0#8 =
      if ((encode3of6 w).getD ((encode3of6 w).length - 2) 0#8).getLsbD 0 = false then 0x55#8 else 0xAA#8 := by
  have hlen : (packBytes (codeStream w)).length = 12 * w.length / 8 := by rw [length_packBytes, length_codeStream]
  have hlast : (packBytes (codeStream w)).getLastD 0#8 =
      (packBytes (codeStream w)).getD ((packBytes (codeStream w)).length - 1) 0#8 := by
    rw [List.getLastD_eq_getLast?, List.getLast?_eq_getElem?, List.getD_eq_getElem?_getD]
  rw [encode3of6_of_even h, List.length_append, List.length_singleton, Nat.add_sub_cancel,
    List.getD_append_right _ _ _ _ (Nat.le_refl _), Nat.sub_self, List.getD_cons_zero,
    Nat.add_sub_add_right _ 1 1, List.getD_append _ _ _ _ (by omega), hlast, postambleByte]
  cases ((packBytes (codeStream w)).getD ((packBytes (codeStream w)).length - 1) 0#8).getLsbD 0 <;> rfl

/-- After an odd number of coded bytes the last nibble is the one that the last code bit selects (R144). -/
theorem encode3of6_postambleNibble (h : w.length % 2 = 1) :
    ((encode3of6 w).getD ((encode3of6 w).length - 1) 0#8).extractLsb' 0 4 =
      if ((encode3of6 w).getD ((encode3of6 w).length - 1) 0#8).getLsbD 4 = false then 0x5#4 else 0xA#4 := by
  rw [encode3of6_of_odd h, List.length_append, List.length_singleton, Nat.add_sub_cancel,
    List.getD_append_right _ _ _ _ (Nat.le_refl _), Nat.sub_self, List.getD_cons_zero]
  exact (postambleHalf_spec _ (length_leftover h)).2

end

/-- Settles O38: the leading bits of the encoded frame are the stream of its codes, and the rest is the postamble. -/
theorem encodedStreamHoldsTheCodes : Obligations.EncodedStreamHoldsTheCodes := by
  unfold Obligations.EncodedStreamHoldsTheCodes
  intro x hpos _ w e bit
  have hlen : e.length = 3 * w.length / 2 + 1 := length_encode3of6 w
  have hw : w.length = x.length + 2 * numBlocks x.length := length_withCrc x
  have hbit {p : Nat} (hp : p < 12 * w.length) : bit p = (codeStream w).getD p false := by
    rw [← take_byteStream_encode3of6 w, List.getD_eq_getElem?_getD, List.getElem?_take_of_lt hp,
      ← List.getD_eq_getElem?_getD]
    exact (getD_byteStream (by omega)).symm
  refine ⟨fun k j hk hj => ?_, ?_⟩
  · rw [hbit (by omega), hbit (by omega)]
    exact getD_codeStream hk hj
  · have hwpos : 0 < w.length := by omega
    split
    case isTrue heven => exact ⟨hlen, encode3of6_postambleByte heven hwpos⟩
    case isFalse hodd => exact ⟨by omega, encode3of6_postambleNibble (Nat.mod_two_ne_zero.mp hodd)⟩

end Sys2Proof.Machine

/-! The checks of PHY_ENCODE and PHY_DECODE (R143, R145 to R148): `DecLen` as the inverse of `EncLen`, the two checks
that both commands begin with, and the checks of T-Meter. -/

namespace Sys2Proof.Machine

/-! ### `DecLen` (R147) -/

/-- A length that `DecLen` returns is that of a frame, and `EncLen` of it is the length it was given (R147). -/
theorem encLen_of_decLen {e n : Nat} (h : decLen e = some n) : 1 ≤ n ∧ n ≤ 256 ∧ encLen n = e := by
  have hblocks := numBlocks_eq n
  unfold decLen at h
  split at h
  case isTrue => cases h
  case isFalse hpos =>
    dsimp only at h
    split at h
    case isTrue => cases h
    case isFalse hwhole =>
      rw [encLen, hblocks]
      generalize hN : (if (e - 1) % 3 = 0 then 2 * ((e - 1) / 3) else 2 * ((e - 1) / 3) + 1) = N at h
      have he : e = 3 * N / 2 + 1 := by split at hN <;> omega
      split_ifs at h <;> cases h <;> split <;> omega

/-- Settles O39, from the two directions. -/
theorem decLenInvertsEncLen : Obligations.DecLenInvertsEncLen := by
  unfold Obligations.DecLenInvertsEncLen
  refine fun e n => ⟨encLen_of_decLen, ?_⟩
  rintro ⟨hmin, hmax, rfl⟩
  exact decLen_encLen hmin hmax

/-- `DecLen` fails exactly for a length that no frame of 1..256 bytes is encoded to (R147). -/
theorem decLen_eq_none_iff (e : Nat) : decLen e = none ↔ ∀ k : Fin 256, encLen (k.val + 1) ≠ e := by
  constructor
  · rintro h k rfl
    rw [decLen_encLen (by omega) (by omega)] at h
    cases h
  · intro h
    cases hdec : decLen e with
    | none => rfl
    | some n =>
      obtain ⟨hmin, hmax, henc⟩ := encLen_of_decLen hdec
      have hk := h ⟨n - 1, by omega⟩
      rw [Nat.sub_add_cancel hmin] at hk
      exact absurd henc hk

/-! ### What both commands begin with (R146) -/

/-- A PHY command fails before any SET_MODE and passes through in a mode other than T-Meter; in T-Meter it makes its
own checks. -/
theorem phyCommand_cases {i : Instr} {s : State} {cs : List (Bool × Failure)} {e : Unit → State} {rest : Prop}
    (h : exec i s = .next (s.checked [(!s.modeValid, .modeNotSet)] fun _ =>
      if s.mode ≠ tMeter then passThrough s (phyOperands s.a) else s.checked cs e))
    (hrest : exec i s = .next (s.checked cs e) → s.modeValid = true → s.mode = 1#4 → rest) :
    if s.modeValid = false then FailsWith i s 5 7
    else if s.mode ≠ 1#4 then CompletesSilently i s { r0 := s.a.r1, r1 := s.a.r0 }
    else rest := by
  refine failsWith_or_of_check h ⟨rfl, rfl, rfl⟩ (by simp) fun hexec hvalid => ?_
  rw [State.checked_nil, tMeter] at hexec
  split
  case isTrue hmode =>
    rw [if_pos hmode] at hexec
    exact completesSilently_of_done hexec
  case isFalse hmode =>
    rw [if_neg hmode] at hexec
    exact hrest hexec (Bool.eq_true_of_not_eq_false hvalid) (Classical.not_not.mp hmode)

/-! ### PHY_ENCODE (R145) -/

/-- PHY_ENCODE's checks in T-Meter, then the encoded frame written (R145). -/
theorem exec_phyEncode (s : State) :
    exec .phyEncode s = .next (s.checked [(!s.modeValid, .modeNotSet)] fun _ =>
      if s.mode ≠ tMeter then passThrough s (phyOperands s.a) else s.checked
        [ (decide (s.a.r1.toNat = 0 ∨ s.a.r1.toNat > 256), .lengthRange),
          (!s.inBuf s.a.r0 s.a.r1.toNat || !s.inBuf s.a.r2 s.a.r3.toNat, .outOfRange),
          (overlap s.a.r0 s.a.r1.toNat s.a.r2 s.a.r3.toNat, .overlap),
          (decide (s.a.r3.toNat < encLen s.a.r1.toNat), .bufferTooSmall) ]
        fun _ => (s.memWrite s.a.r2.toNat (phyEncode (s.memRead s.a.r0.toNat s.a.r1.toNat))).done
          { r0 := trunc32 (encLen s.a.r1.toNat), r1 := s.a.r2, r2 := trunc32 (numBlocks s.a.r1.toNat) }) := rfl

/-- Settles O40: the checks in order, then the encoded frame. -/
theorem phyEncodeWritesEncodedFrame : Obligations.PhyEncodeWritesEncodedFrame := by
  unfold Obligations.PhyEncodeWritesEncodedFrame
  refine ⟨rfl, fun s hwf => phyCommand_cases (exec_phyEncode s) fun hexec _ _ => ?_⟩
  refine failsWith_or_of_check hexec ⟨rfl, rfl, rfl⟩ decide_eq_true_iff fun hexec _ => ?_
  refine failsWith_or_of_check hexec ⟨rfl, rfl, rfl⟩ (by simp) fun hexec _ => ?_
  refine failsWith_or_of_check hexec ⟨rfl, rfl, rfl⟩ Iff.rfl fun hexec _ => ?_
  refine failsWith_or_of_check hexec ⟨rfl, rfl, rfl⟩ decide_eq_true_iff fun hexec _ => ?_
  exact completesStoring_of_done hwf hexec

/-! ### PHY_DECODE up to the data (R148) -/

/-- PHY_DECODE's checks in T-Meter, then the decoding of the data (R148). -/
theorem exec_phyDecode (s : State) :
    exec .phyDecode s = .next (s.checked [(!s.modeValid, .modeNotSet)] fun _ =>
      if s.mode ≠ tMeter then passThrough s (phyOperands s.a) else s.checked
        [ (!s.inBuf s.a.r0 s.a.r1.toNat || !s.inBuf s.a.r2 s.a.r3.toNat, .outOfRange),
          (overlap s.a.r0 s.a.r1.toNat s.a.r2 s.a.r3.toNat, .overlap),
          ((decLen s.a.r1.toNat).isNone, .encodedLength),
          (decide (s.a.r3.toNat < (decLen s.a.r1.toNat).getD 0), .bufferTooSmall) ]
        fun _ => phyDecodeEffect s (phyOperands s.a) ((decLen s.a.r1.toNat).getD 0)) := rfl

/-- Settles O41: the checks in order, with the frame's length from `DecLen`. -/
theorem phyDecodeChecksBeforeData : Obligations.PhyDecodeChecksBeforeData := by
  unfold Obligations.PhyDecodeChecksBeforeData
  refine ⟨rfl, fun s => phyCommand_cases (exec_phyDecode s) fun hexec hvalid hmode => ?_⟩
  refine failsWith_or_of_check hexec ⟨rfl, rfl, rfl⟩ (by simp) fun hexec hranges => ?_
  refine failsWith_or_of_check hexec ⟨rfl, rfl, rfl⟩ Iff.rfl fun hexec hapart => ?_
  simp only [← decLen_eq_none_iff]
  refine failsWith_or_of_check hexec ⟨rfl, rfl, rfl⟩ Option.isNone_iff_eq_none fun hexec hlength => ?_
  obtain ⟨n, hdec⟩ := Option.ne_none_iff_exists'.mp hlength
  obtain ⟨hmin, hmax, henc⟩ := encLen_of_decLen hdec
  simp only [hdec, Option.getD_some] at hexec
  refine ⟨n, hmin, hmax, henc, ?_⟩
  refine failsWith_or_of_check hexec ⟨rfl, rfl, rfl⟩ decide_eq_true_iff fun _ hcap => ?_
  simp only [not_or, Bool.not_eq_false] at hranges
  exact ⟨hvalid, hmode, hmin, hmax, henc.symm, hranges.1, hranges.2, Bool.eq_false_iff.mpr hapart, Nat.not_lt.mp hcap⟩

end Sys2Proof.Machine

/-! Decoding of any stream (R141, R147 to R149): which bits decode to a byte, to bytes and to a block, where decoding
ends and what it leaves, and one flipped bit (R150(a)). -/

namespace Sys2Proof.Machine

/-! ### Codes of a stream (R141) -/

/-- A code stands for the nibble whose code it is. -/
theorem t3of6_of_inv3of6 {c : BitVec 6} {n : BitVec 4} (h : inv3of6 c = some n) : t3of6 n = c :=
  beq_iff_eq.mp (List.find?_some (p := fun n => t3of6 n == c) h)

/-- Six bits that read as the code of a nibble are its bits. -/
theorem eq_msbFirst_of_inv3of6 {bs : List Bool} {n : BitVec 4} (hlen : bs.length = 6)
    (h : inv3of6 (BitVec.ofNat 6 (fromMsbFirst bs)) = some n) : bs = msbFirst 6 (t3of6 n) := by
  have hbits := msbFirst_fromMsbFirst bs
  rw [hlen] at hbits
  rw [t3of6_of_inv3of6 h, hbits]

/-- Code `j` of a stream past `m` coded bytes is code `2 * m + j` of the stream. -/
theorem streamCode_drop (bs : List Bool) (m j : Nat) : streamCode (bs.drop (12 * m)) j = streamCode bs (2 * m + j) := by
  rw [streamCode, streamCode, List.drop_drop]
  congr 4
  omega

/-! ### Decoding bytes (R148) -/

/-- A byte fails to decode exactly when one of its two codes is invalid. -/
theorem decodeByte_eq_none_iff (bs : List Bool) :
    decodeByte bs = none ↔ inv3of6 (streamCode bs 0) = none ∨ inv3of6 (streamCode bs 1) = none := by
  have hhigh : streamCode bs 0 = BitVec.ofNat 6 (fromMsbFirst (bs.take 6)) := rfl
  have hlow : streamCode bs 1 = BitVec.ofNat 6 (fromMsbFirst ((bs.drop 6).take 6)) := rfl
  rw [hhigh, hlow, decodeByte]
  cases inv3of6 (BitVec.ofNat 6 (fromMsbFirst (bs.take 6))) with
  | none => simp
  | some hi => cases inv3of6 (BitVec.ofNat 6 (fromMsbFirst ((bs.drop 6).take 6))) <;> simp

/-- Bits that decode to a byte are its codes. -/
theorem take_of_decodeByte {bs : List Bool} {b : Byte} (hlen : 12 ≤ bs.length) (h : decodeByte bs = some b) :
    bs.take 12 = codeBits b := by
  unfold decodeByte at h
  split at h
  case h_1 hi lo hhigh hlow =>
    obtain rfl := Option.some.inj h
    rw [codeBits_append, ← eq_msbFirst_of_inv3of6 (List.length_take_of_le (by omega)) hhigh,
      ← eq_msbFirst_of_inv3of6 (List.length_take_of_le (by rw [List.length_drop]; omega)) hlow]
    exact (List.take_add : bs.take (6 + 6) = _)
  case h_2 => cases h

/-- Bytes fail to decode exactly when one of their codes is invalid. -/
theorem decodeBytes_eq_none_iff (n : Nat) (bs : List Bool) :
    decodeBytes n bs = none ↔ ∃ j, j < 2 * n ∧ inv3of6 (streamCode bs j) = none := by
  induction n generalizing bs with
  | zero => simp [decodeBytes]
  | succ n ih =>
    have hrest (j : Nat) : streamCode (bs.drop 12) j = streamCode bs (j + 2) := by
      rw [Nat.add_comm j]
      exact streamCode_drop bs 1 j
    have hcons : decodeBytes (n + 1) bs = none ↔ decodeByte bs = none ∨ decodeBytes n (bs.drop 12) = none := by
      rw [decodeBytes]
      cases decodeByte bs with
      | none => simp
      | some b => cases decodeBytes n (bs.drop 12) <;> simp
    rw [hcons, decodeByte_eq_none_iff, ih]
    simp only [hrest]
    constructor
    · rintro ((h | h) | ⟨j, hj, h⟩)
      · exact ⟨0, by omega, h⟩
      · exact ⟨1, by omega, h⟩
      · exact ⟨j + 2, by omega, h⟩
    · rintro ⟨_ | _ | j, hj, h⟩
      · exact .inl (.inl h)
      · exact .inl (.inr h)
      · exact .inr ⟨j, by omega, h⟩

/-- The same for bytes that stand after `m` coded bytes of the stream. -/
theorem decodeBytes_drop_eq_none_iff (n m : Nat) (bs : List Bool) :
    decodeBytes n (bs.drop (12 * m)) = none ↔
      ∃ j, 2 * m ≤ j ∧ j < 2 * (m + n) ∧ inv3of6 (streamCode bs j) = none := by
  simp only [decodeBytes_eq_none_iff, streamCode_drop]
  constructor
  · rintro ⟨j, hj, h⟩
    exact ⟨2 * m + j, by omega, by omega, h⟩
  · rintro ⟨j, hmin, hmax, h⟩
    refine ⟨j - 2 * m, by omega, ?_⟩
    rwa [Nat.add_sub_cancel' hmin]

/-- Bytes decode exactly to those whose codes the stream begins with. -/
theorem decodeBytes_eq_some_iff {n : Nat} {bs : List Bool} (hlen : 12 * n ≤ bs.length) (r : List Byte) :
    decodeBytes n bs = some r ↔ r.length = n ∧ bs.take (12 * n) = codeStream r := by
  constructor
  · intro h
    refine ⟨length_decodeBytes n bs r h, ?_⟩
    induction n generalizing bs r with
    | zero =>
      obtain rfl := Option.some.inj h
      rfl
    | succ n ih =>
      rw [decodeBytes] at h
      split at h
      case h_1 => cases h
      case h_2 b hb =>
        split at h
        case h_1 => cases h
        case h_2 t ht =>
          obtain rfl := Option.some.inj h
          rw [codeStream_cons, ← take_of_decodeByte (by omega) hb,
            ← ih (by rw [List.length_drop]; omega) t ht, Nat.mul_succ, Nat.add_comm, List.take_add]
  · rintro ⟨rfl, h⟩
    rw [← List.take_append_drop (12 * r.length) bs, h, decodeBytes_codeStream]

/-! ### Where decoding ends (R148, R149) -/

/-- The stream begins with the codes of the blocks `ks` of the bytes `x` and of their CRCs. -/
def HoldsBlocks (bs : List Bool) (ks : List Nat) (x : List Byte) : Prop :=
  x.length = ks.sum ∧ bs.take (12 * (ks.sum + 2 * ks.length)) = codeStream (withCrcBlocks ks x)

/-- The stream begins with the codes of a block of `k` bytes and of two bytes that are not its CRC. -/
def HoldsMismatch (bs : List Bool) (k : Nat) : Prop :=
  ∃ r : List Byte, r.length = k + 2 ∧ bs.take (12 * (k + 2)) = codeStream r ∧
    (crc16 (r.take k)).toNat ≠ (byteAt r k).toNat * 256 + (byteAt r (k + 1)).toNat

/-- The stream begins with a block of `k` bytes that fails with `f`, as the block `b` of its frame. -/
def FailsBlock (bs : List Bool) (k b : Nat) (f : Failure) : Prop :=
  (f = .invalidCode b ∧ decodeBytes (k + 2) bs = none) ∨ (f = .crcMismatch b ∧ HoldsMismatch bs k)

theorem HoldsBlocks.nil (bs : List Bool) : HoldsBlocks bs [] [] := ⟨rfl, rfl⟩

/-- A block with its CRC in front of blocks with theirs. -/
theorem HoldsBlocks.cons {bs : List Bool} {ks : List Nat} {x d : List Byte}
    (hfirst : bs.take (12 * (d.length + 2)) = codeStream (codedBlock d))
    (hrest : HoldsBlocks (bs.drop (12 * (d.length + 2))) ks x) : HoldsBlocks bs (d.length :: ks) (d ++ x) := by
  obtain ⟨hsum, hbits⟩ := hrest
  refine ⟨by rw [List.length_append, hsum, List.sum_cons], ?_⟩
  rw [withCrcBlocks_cons, List.take_left, List.drop_left, codeStream_append, ← hfirst, ← hbits, ← List.take_add,
    List.sum_cons, List.length_cons]
  congr 1
  ring

/-- A block with an invalid code ends the decoding. -/
theorem decodeBlocks_of_invalid {k : Nat} {bs : List Bool} (h : decodeBytes (k + 2) bs = none) (ks : List Nat)
    (b : Nat) : decodeBlocks (k :: ks) b bs = ⟨[], b, some (.invalidCode b)⟩ := by
  rw [decodeBlocks, h]

/-- Decoding takes over every block, or those before the first bad one, and ends there. -/
theorem decodeBlocks_outcome (ks : List Nat) (b : Nat) {bs : List Bool}
    (hlen : 12 * (ks.sum + 2 * ks.length) ≤ bs.length) :
    (∃ x, decodeBlocks ks b bs = ⟨x, b + ks.length, none⟩ ∧ HoldsBlocks bs ks x) ∨
      ∃ j x f, j < ks.length ∧ decodeBlocks ks b bs = ⟨x, b + j, some f⟩ ∧ HoldsBlocks bs (ks.take j) x ∧
        FailsBlock (bs.drop (12 * ((ks.take j).sum + 2 * j))) (ks.getD j 0) (b + j) f := by
  induction ks generalizing b bs with
  | nil => exact .inl ⟨[], rfl, HoldsBlocks.nil bs⟩
  | cons k ks ih =>
    rw [List.sum_cons, List.length_cons] at hlen
    cases hdec : decodeBytes (k + 2) bs with
    | none =>
      exact .inr ⟨0, [], _, Nat.succ_pos _, decodeBlocks_of_invalid hdec ks b, HoldsBlocks.nil bs, .inl ⟨rfl, hdec⟩⟩
    | some r =>
      obtain ⟨hr, hbits⟩ := (decodeBytes_eq_some_iff (by omega) r).mp hdec
      have hsplit : bs = codeStream r ++ bs.drop (12 * (k + 2)) := by rw [← hbits, List.take_append_drop]
      by_cases hcrc : r = codedBlock (r.take k)
      · have hk : (r.take k).length = k := List.length_take_of_le (by omega)
        generalize r.take k = d at hcrc hk
        subst hcrc hk
        have hstep := decodeBlocks_codedBlock (ks := ks) (b := b) (bs := bs.drop (12 * (d.length + 2))) d
        rw [← hsplit] at hstep
        rcases ih (b + 1) (bs := bs.drop (12 * (d.length + 2))) (by rw [List.length_drop]; omega) with
          ⟨x, hx, hholds⟩ | ⟨j, x, f, hj, hx, hholds, hbad⟩
        · refine .inl ⟨d ++ x, ?_, HoldsBlocks.cons hbits hholds⟩
          rw [hstep, hx, List.length_cons, Nat.add_assoc, Nat.add_comm 1]
        · refine .inr ⟨j + 1, d ++ x, f, Nat.succ_lt_succ hj, ?_, HoldsBlocks.cons hbits hholds, ?_⟩
          · rw [hstep, hx, Nat.add_assoc, Nat.add_comm 1]
          · rw [List.drop_drop, Nat.add_assoc b, Nat.add_comm 1] at hbad
            rw [List.take_succ_cons, List.sum_cons, List.getD_cons_succ]
            convert hbad using 2
            ring
      · refine .inr ⟨0, [], .crcMismatch b, Nat.succ_pos _, ?_, HoldsBlocks.nil bs, .inr ⟨rfl, r, hr, hbits, ?_⟩⟩
        · rw [hsplit]
          exact decodeBlocks_of_mismatch hr hcrc
        · exact mt (crcCheck_iff hr).mp hcrc

/-! ### A flipped bit (R150(a)) -/

/-- Every code has three bits set (R140), so with one bit flipped it is no code. -/
theorem inv3of6_flip : ∀ (n : BitVec 4) (i : Fin 6),
    inv3of6 (BitVec.ofNat 6 (fromMsbFirst ((msbFirst 6 (t3of6 n)).modify i.val fun b => !b))) = none := by
  decide

/-- A stream cut at one of its codes. -/
theorem codeStream_split {w : List Byte} {j : Nat} (hj : j < 2 * w.length) :
    ∃ pre n post, codeStream w = pre ++ (msbFirst 6 (t3of6 n) ++ post) ∧ pre.length = 6 * j := by
  induction w generalizing j with
  | nil => simp at hj
  | cons b w ih =>
    obtain ⟨hi, lo, rfl⟩ := exists_nibbles b
    rw [codeStream_cons]
    match j with
    | 0 => exact ⟨[], hi, msbFirst 6 (t3of6 lo) ++ codeStream w, by rw [codeBits_append]; simp, rfl⟩
    | 1 => exact ⟨msbFirst 6 (t3of6 hi), lo, codeStream w, by rw [codeBits_append, List.append_assoc], rfl⟩
    | j + 2 =>
      obtain ⟨pre, n, post, hsplit, hpre⟩ := ih (j := j) (by rw [List.length_cons] at hj; omega)
      refine ⟨codeBits (hi ++ lo) ++ pre, n, post, by rw [hsplit, List.append_assoc], ?_⟩
      rw [List.length_append, length_codeBits, hpre]
      omega

/-- Changing one item of the middle of a sequence. -/
theorem modify_middle {α : Type} (f : α → α) (pre post : List α) {mid : List α} {i : Nat} (h : i < mid.length) :
    (pre ++ (mid ++ post)).modify (pre.length + i) f = pre ++ (mid.modify i f ++ post) := by
  rw [List.modify_eq_set_getElem?, List.modify_eq_set_getElem?, List.getElem?_append_right (Nat.le_add_right _ _),
    Nat.add_sub_cancel_left, List.getElem?_append_left h, List.getElem?_eq_getElem h]
  simp only [Option.map_eq_map, Option.map_some, Option.getD_some]
  rw [List.set_append_right _ _ (Nat.le_add_right _ _), Nat.add_sub_cancel_left, List.set_append_left _ _ h]

/-- Of a stream with one bit flipped, the code that holds the bit is invalid. -/
theorem streamCode_flip {w : List Byte} {q : Nat} (hq : q < 12 * w.length) (bs : List Bool) :
    inv3of6 (streamCode ((codeStream w).modify q (fun b => !b) ++ bs) (q / 6)) = none := by
  obtain ⟨pre, n, post, hsplit, hpre⟩ := codeStream_split (w := w) (j := q / 6) (by omega)
  have hplace : q = pre.length + q % 6 := by omega
  have hlt : q % 6 < (msbFirst 6 (t3of6 n)).length := by rw [length_msbFirst]; omega
  have hflipped : (codeStream w).modify q (fun b => !b) =
      pre ++ ((msbFirst 6 (t3of6 n)).modify (q % 6) (fun b => !b) ++ post) := by
    rw [hsplit]
    conv_lhs => rw [hplace]
    exact modify_middle _ _ _ hlt
  rw [streamCode, hflipped, List.append_assoc, List.drop_left' hpre, List.append_assoc,
    List.take_left' (by rw [List.length_modify, length_msbFirst])]
  exact inv3of6_flip n ⟨q % 6, Nat.mod_lt _ (by decide)⟩

/-- The blocks before block `j` are taken over, and the decoding goes on with it. -/
theorem failure_decodeBlocks_of_split {x : List Byte} {j : Nat} (h : j < numBlocks x.length) (bs : List Bool) :
    (decodeBlocks (blocks x.length) 0 (codeStream (withCrcBlocks ((blocks x.length).take j) x) ++ bs)).failure =
      (decodeBlocks ((blockData x j).length :: (blocks x.length).drop (j + 1)) j bs).failure := by
  have hstart := blockStart_le_blockStop h
  have hstop : blockStop x.length j ≤ x.length := Nat.min_le_left _ _
  have hcount : ((blocks x.length).take j).length = j := List.length_take_of_le (Nat.le_of_lt h)
  conv_lhs => arg 1; arg 1; rw [blocks_split h]
  rw [decodeBlocks_withCrcBlocks _ _ _ _ _ (by rw [sum_take_blocks h]; omega), hcount, Nat.zero_add]

/-- Decoding a frame with one bit flipped ends at the block that holds the bit, with an invalid code. -/
theorem failure_decodeBlocks_flip {x : List Byte} {p : Nat} (hp : p < 12 * (withCrc x).length) (bs : List Bool) :
    (decodeBlocks (blocks x.length) 0 ((codeStream (withCrc x)).modify p (fun b => !b) ++ bs)).failure =
      some (.invalidCode (blockOfBit p)) := by
  rw [length_withCrc] at hp
  obtain ⟨hblock, hfirst, hlast⟩ := blockOfBit_bounds (p := p) (n := x.length) (by omega)
  generalize blockOfBit p = j at *
  have hbefore : (codeStream (withCrcBlocks ((blocks x.length).take j) x)).length = 12 * (blockStart j + 2 * j) := by
    rw [length_codeStream, length_withCrcBlocks_take hblock]
  have hdata := length_blockData x j
  have hcoded := length_codedBlock (blockData x j)
  obtain ⟨q, rfl⟩ : ∃ q, p = (codeStream (withCrcBlocks ((blocks x.length).take j) x)).length + q :=
    Nat.exists_eq_add_of_le (by omega)
  have hq : q < 12 * (codedBlock (blockData x j)).length := by omega
  rw [withCrc_split hblock, codeStream_append, codeStream_append,
    modify_middle _ _ _ (by rw [length_codeStream]; exact hq), List.append_assoc, List.append_assoc,
    failure_decodeBlocks_of_split hblock, decodeBlocks_of_invalid]
  exact (decodeBytes_eq_none_iff _ _).mpr ⟨q / 6, by omega, streamCode_flip hq _⟩

end Sys2Proof.Machine

/-! PHY_DECODE past its checks (R148 to R150): what it leaves of a verified frame and of one with a bad block, and what
it makes of the output of PHY_ENCODE. -/

namespace Sys2Proof.Machine

/-! ### The end of PHY_DECODE (R148, R149) -/

/-- How a command fails does not change what a range of `BUF` reads as. -/
@[simp] theorem State.memRead_raise (u : State) (f : Failure) (v : Bank) (p n : Nat) :
    (u.raise f v).memRead p n = u.memRead p n :=
  State.memRead_congr _ _ _ _ _ fun _ _ => rfl

/-- A block of a frame ends inside it (R134). -/
theorem sum_take_add_getD_le {n b : Nat} (h : b < (blocks n).length) :
    ((blocks n).take b).sum + (blocks n).getD b 0 ≤ n := by
  have hcut := congrArg List.sum (List.take_append_drop (b + 1) (blocks n))
  rw [List.sum_append, List.sum_take_succ _ _ h, sum_blocks] at hcut
  rw [List.getD_eq_getElem _ _ h]
  omega

/-- A frame of at most 256 bytes has few enough blocks for the index of `ERRINFO` (R25, R134). -/
theorem numBlocks_lt {n : Nat} (h : n ≤ 256) : numBlocks n < 2 ^ 16 := by
  rw [numBlocks_eq]
  split <;> omega

theorem errinfo_invalidCode_toNat {b : Nat} (h : b < 2 ^ 16) :
    (Failure.invalidCode b).errinfo.toNat = 256 * b + 1 := by
  rw [Failure.errinfo, errinfoWord_toNat, Failure.index, BitVec.toNat_ofNat, Nat.mod_eq_of_lt h]
  rfl

section
variable {s : State} {n m : Nat} {x : List Byte}

/-- A decoding of all blocks stores the frame and reports OK (R148). -/
theorem phyDecodeEffect_of_verified (h : decodeBlocks (blocks n) 0 (encodedBits s) = ⟨x, m, none⟩) :
    phyDecodeEffect s (phyOperands s.a) n = (s.memWrite s.a.r2.toNat x).done
      { r0 := BitVec.ofNat 32 n, r1 := s.a.r2, r2 := BitVec.ofNat 32 (numBlocks n) } := by
  have hdec : phyDecode n (s.memRead (phyOperands s.a).src.toNat (phyOperands s.a).len.toNat) = ⟨x, m, none⟩ := h
  rw [phyDecodeEffect, hdec]
  rfl

/-- A decoding that ends at a bad block stores the blocks before it and reports the failure (R149). -/
theorem phyDecodeEffect_of_bad {f : Failure} (h : decodeBlocks (blocks n) 0 (encodedBits s) = ⟨x, m, some f⟩) :
    phyDecodeEffect s (phyOperands s.a) n = (s.memWrite s.a.r2.toNat x).raise f
      { r0 := BitVec.ofNat 32 x.length, r2 := BitVec.ofNat 32 m } := by
  have hdec : phyDecode n (s.memRead (phyOperands s.a).src.toNat (phyOperands s.a).len.toNat) = ⟨x, m, some f⟩ := h
  rw [phyDecodeEffect, hdec]
  rfl

/-- A state ready for a frame reads all its codes. -/
theorem le_length_encodedBits (h : PhyDecodeReady s n) : 12 * (n + 2 * numBlocks n) ≤ (encodedBits s).length := by
  obtain ⟨-, -, -, -, hlen, -⟩ := h
  rw [encodedBits, length_byteStream, State.length_memRead, hlen, encLen]
  omega

/-- What a failed block reports: cause 1 exactly for an invalid code in it, cause 2 exactly for valid codes of bytes
whose CRC does not match. -/
theorem failsBlock_report {bs : List Bool} {k b : Nat} {f : Failure} (h : FailsBlock bs k b f)
    (hlen : 12 * (k + 2) ≤ bs.length) (hb : b < 2 ^ 16) :
    ∃ c, (c = 1 ∨ c = 2) ∧ statusWord f.status = 2#32 ∧ f.errinfo.toNat = 256 * b + c ∧
      (c = 1 ↔ decodeBytes (k + 2) bs = none) ∧ (c = 2 ↔ HoldsMismatch bs k) := by
  rcases h with ⟨rfl, hnone⟩ | ⟨rfl, r, hr, hbits, hcrc⟩
  · refine ⟨1, .inl rfl, rfl, errinfo_invalidCode_toNat hb, iff_of_true rfl hnone, iff_of_false (by decide) ?_⟩
    rintro ⟨r, hr, hbits, -⟩
    rw [(decodeBytes_eq_some_iff hlen r).mpr ⟨hr, hbits⟩] at hnone
    cases hnone
  · refine ⟨2, .inr rfl, rfl, errinfo_crcMismatch_toNat hb, iff_of_false (by decide) ?_,
      iff_of_true rfl ⟨r, hr, hbits, hcrc⟩⟩
    rw [(decodeBytes_eq_some_iff hlen r).mpr ⟨hr, hbits⟩]
    exact Option.some_ne_none r

end

/-! ### What PHY_DECODE leaves (R148 to R150) -/

/-- Settles O42: the codes of the frame decode to it, and its CRCs match. -/
theorem phyDecodeRecoversFrame : Obligations.PhyDecodeRecoversFrame := by
  unfold Obligations.PhyDecodeRecoversFrame
  intro s x hwf hready hbits
  have hsum := sum_blocks x.length
  have hdec := decodeBlocks_withCrcBlocks (blocks x.length) [] 0 x ((encodedBits s).drop (12 * (withCrc x).length))
    (Nat.le_of_eq hsum)
  rw [List.append_nil, hsum, List.take_length, ← withCrc, ← hbits, List.take_append_drop, decodeBlocks,
    List.append_nil] at hdec
  exact completesStoring_of_done hwf
    ((exec_phyDecode_of_ready hready).trans (congrArg _ (phyDecodeEffect_of_verified hdec)))

/-- Settles O44: the flipped bit makes its code invalid, and the decoding ends there. -/
theorem singleBitFlipDetected : Obligations.SingleBitFlipDetected := by
  unfold Obligations.SingleBitFlipDetected
  intro s x p hready hp hbits
  have hindex : blockOfBit p < 2 ^ 16 := by
    obtain ⟨-, -, -, hmax, -⟩ := hready
    rw [length_withCrc] at hp
    exact lt_trans (blockOfBit_bounds (n := x.length) (by omega)).1 (numBlocks_lt hmax)
  have hfailure := failure_decodeBlocks_flip hp ((encodedBits s).drop (12 * (withCrc x).length))
  rw [← hbits, List.take_append_drop] at hfailure
  obtain ⟨hstatus, herrinfo⟩ := phyDecodeEffect_of_failure hfailure
  refine ⟨_, exec_phyDecode_of_ready hready, hstatus, ?_⟩
  rw [herrinfo, errinfo_invalidCode_toNat hindex]

/-- Settles O46: the outcome of the decoding, and what PHY_DECODE makes of it. -/
theorem phyDecodeSalvagesVerifiedBlocks : Obligations.PhyDecodeSalvagesVerifiedBlocks := by
  unfold Obligations.PhyDecodeSalvagesVerifiedBlocks
  intro s n hwf hready
  have hlong := le_length_encodedBits hready
  have hsum := sum_blocks n
  have hexec := exec_phyDecode_of_ready hready
  have hkeeps (x : List Byte) : KeepsFixed s (s.memWrite s.a.r2.toNat x) := (KeepsFixed.refl s).memWrite _ x
  refine ⟨_, hexec, ?_⟩
  rcases decodeBlocks_outcome (blocks n) 0 (bs := encodedBits s) (by rw [hsum]; exact hlong) with
    ⟨x, hdec, hx, hbits⟩ | ⟨b, x, f, hb, hdec, ⟨hx, hbits⟩, hfails⟩
  · obtain rfl : x.length = n := hx.trans hsum
    rw [phyDecodeEffect_of_verified hdec]
    refine ⟨(hkeeps x).done _, ⟨rfl, rfl, rfl, rfl⟩, .inl ⟨⟨rfl, rfl, rfl⟩, ?_, ?_⟩⟩
    · exact fun a ha => s.readByte_memWrite_outside _ x a hwf ha
    · rw [State.memRead_done, s.memRead_memWrite _ x hwf]
      rw [hsum] at hbits
      exact hbits
  · obtain ⟨-, -, -, hmax, -⟩ := hready
    have hindex : b < numBlocks n := hb
    have hcount : ((blocks n).take b).length = b := List.length_take_of_le (Nat.le_of_lt hb)
    have hblock := sum_take_add_getD_le hb
    rw [Nat.zero_add] at hdec hfails
    rw [hcount, ← hx] at hbits
    rw [← hx] at hfails
    obtain ⟨c, hc, hstatus, herrinfo, hinvalid, hmismatch⟩ := failsBlock_report hfails
      (by rw [List.length_drop]; omega) (lt_trans hindex (numBlocks_lt hmax))
    rw [phyDecodeEffect_of_bad hdec]
    refine ⟨(hkeeps x).raise f _, ⟨rfl, rfl, rfl, rfl⟩, .inr ⟨b, c, hb, hc, ?_⟩⟩
    rw [← hx]
    refine ⟨hstatus, herrinfo, rfl, ?_, ?_, ?_, hmismatch⟩
    · exact fun a ha => s.readByte_memWrite_outside _ x a hwf ha
    · rw [State.memRead_raise, s.memRead_memWrite _ x hwf]
      exact hbits
    · exact hinvalid.trans (decodeBytes_drop_eq_none_iff _ _ _)

/-! ### PHY_DECODE after PHY_ENCODE (R150(d)) -/

/-- A non-empty range inside one that passes `InBuf` at the same address passes it too (R56). -/
theorem State.inBuf_of_le {s : State} {p : Word} {k n : Nat} (h : s.inBuf p n = true) (hpos : 0 < k) (hle : k ≤ n) :
    s.inBuf p k = true := by
  rw [State.inBuf_iff] at *
  exact h.elim (by omega) fun ⟨hnull, hend⟩ => .inr ⟨hnull, by omega⟩

/-- What a PHY_ENCODE that succeeds in T-Meter leaves for a PHY_DECODE of its output (R145). -/
theorem phyEncode_ok {s t : State} (hwf : Memory.wf s.buf) (hmode : s.mode = 1#4) (ht : exec .phyEncode s = .next t)
    (hok : t.status = 0#32) :
    t.modeValid = true ∧ t.mode = 1#4 ∧ Memory.wf t.buf ∧ 1 ≤ s.a.r1.toNat ∧ s.a.r1.toNat ≤ 256 ∧
      t.v.r0.toNat = encLen s.a.r1.toNat ∧ t.v.r2 = BitVec.ofNat 32 (numBlocks s.a.r1.toNat) ∧
      t.inBuf s.a.r2 t.v.r0.toNat = true ∧
      t.memRead s.a.r2.toNat t.v.r0.toNat = phyEncode (s.memRead s.a.r0.toNat s.a.r1.toNat) := by
  obtain ⟨hvalid, heffect⟩ := checked_ok (exec_phyEncode s) ht hok
  have hmeter : ¬ s.mode ≠ tMeter := not_not_intro hmode
  rw [if_neg hmeter] at heffect
  obtain ⟨hchecks, heffect⟩ := checked_ok (ht.trans (congrArg _ heffect)) ht hok
  simp only [List.forall_mem_cons, Bool.not_eq_false', Bool.or_eq_false_iff, decide_eq_false_iff_not] at hvalid hchecks
  obtain ⟨hvalid, -⟩ := hvalid
  obtain ⟨hlength, ⟨-, hdst⟩, -, hcap, -⟩ := hchecks
  have hcount : t.v.r0.toNat = encLen s.a.r1.toNat := by
    rw [heffect]
    exact Nat.mod_eq_of_lt (by omega)
  rw [hcount]
  subst heffect
  refine ⟨hvalid, hmode, s.memWrite_wf _ _ hwf, by omega, by omega, rfl, rfl, ?_, ?_⟩
  · exact State.inBuf_of_le (s := s) hdst (Nat.succ_pos _) (Nat.not_lt.mp hcap)
  · have hwritten := s.memRead_memWrite s.a.r2.toNat (phyEncode (s.memRead s.a.r0.toNat s.a.r1.toNat)) hwf
    rw [length_phyEncode, State.length_memRead] at hwritten
    exact (State.memRead_done _ _ _ _).trans hwritten

/-- Settles O43: what PHY_ENCODE wrote begins with the frame's codes, and its range is ready to be decoded. -/
theorem phyRoundTrip : Obligations.PhyRoundTrip := by
  unfold Obligations.PhyRoundTrip
  intro s t b hwf hmode ht hok hsrc hlen hdst hapart hfits
  obtain ⟨hvalid, hmode', hwf', hmin, hmax, hcount, hblocks, hrange, hread⟩ := phyEncode_ok hwf hmode ht hok
  have hx := s.length_memRead s.a.r0.toNat s.a.r1.toNat
  generalize s.memRead s.a.r0.toNat s.a.r1.toNat = x at *
  rw [← hsrc, ← hlen] at hrange hread
  have hready : PhyDecodeReady (t.withArgs b) s.a.r1.toNat :=
    ⟨hvalid, hmode', hmin, hmax, hlen ▸ hcount, hrange, hdst, hapart, hfits⟩
  have hbits : encodedBits (t.withArgs b) = byteStream (phyEncode x) :=
    congrArg byteStream ((t.withArgs_memRead b _ _).trans hread)
  rw [← hx] at hready
  have hround := phyDecodeRecoversFrame (t.withArgs b) x hwf' hready
    (by rw [hbits]; exact take_byteStream_encode3of6 (withCrc x))
  rw [hx, BitVec.ofNat_toNat, BitVec.setWidth_eq, ← hblocks] at hround
  exact hround

end Sys2Proof.Machine

/-! The block cipher (R181 to R187): every round transformation is undone by its inverse, so decryption undoes
encryption. -/

namespace Sys2Proof.Machine

/-! ### Substitution and rows (R182, R183, R185, R186) -/

/-- The table of R183 reads back every entry of the table of R182. -/
theorem invSbox_sbox (v : Byte) : invSbox (sbox v) = v := by
  revert v
  decide

theorem invSubBytes_subBytes (s : Block) : invSubBytes (subBytes s) = s := by
  simp only [invSubBytes, subBytes, mapBytes, invSbox_sbox]

theorem invShiftRows_shiftRows (s : Block) : invShiftRows (shiftRows s) = s := rfl

/-! ### Columns (R181, R185, R186) -/

theorem xor_left_comm (a b c : Byte) : a ^^^ (b ^^^ c) = b ^^^ (a ^^^ c) := by
  ac_rfl

/-- Multiplication by x is additive: the reduction by 0x11B depends on the top bits alone (R181). -/
theorem xtime_xor (a b : Byte) : xtime (a ^^^ b) = xtime a ^^^ xtime b := by
  simp only [xtime, BitVec.getLsbD_xor, BitVec.shiftLeft_xor_distrib]
  cases a.getLsbD 7 <;> cases b.getLsbD 7 <;> simp [BitVec.xor_assoc, BitVec.xor_comm, xor_left_comm]

theorem mul2_xor (a b : Byte) : mul2 (a ^^^ b) = mul2 a ^^^ mul2 b := xtime_xor a b

theorem mul4_xor (a b : Byte) : mul4 (a ^^^ b) = mul4 a ^^^ mul4 b := by simp only [mul4, xtime_xor]

theorem mul8_xor (a b : Byte) : mul8 (a ^^^ b) = mul8 a ^^^ mul8 b := by simp only [mul8, mul4_xor, xtime_xor]

/-- Multiplication by each factor of InvMixColumns is additive. -/
theorem invMixFactors_xor (a b : Byte) :
    mul9 (a ^^^ b) = mul9 a ^^^ mul9 b ∧ mul11 (a ^^^ b) = mul11 a ^^^ mul11 b ∧
      mul13 (a ^^^ b) = mul13 a ^^^ mul13 b ∧ mul14 (a ^^^ b) = mul14 a ^^^ mul14 b := by
  simp only [mul9, mul11, mul13, mul14, mul2_xor, mul4_xor, mul8_xor]
  refine ⟨?_, ?_, ?_, ?_⟩ <;> ac_rfl

/-- InvMixColumns is additive on a column. -/
theorem invMixColumn_xor (p q : Quad) : invMixColumn (p.xor q) = (invMixColumn p).xor (invMixColumn q) := by
  simp only [invMixColumn, Quad.xor, invMixFactors_xor, Quad.mk.injEq]
  refine ⟨?_, ?_, ?_, ?_⟩ <;> ac_rfl

/-- The product of the matrices of R186 and R185 is the identity, one column of it to a conjunct. -/
theorem invMixColumn_mixed (a : Byte) :
    invMixColumn ⟨mul2 a, a, a, mul3 a⟩ = ⟨a, 0#8, 0#8, 0#8⟩ ∧
      invMixColumn ⟨mul3 a, mul2 a, a, a⟩ = ⟨0#8, a, 0#8, 0#8⟩ ∧
      invMixColumn ⟨a, mul3 a, mul2 a, a⟩ = ⟨0#8, 0#8, a, 0#8⟩ ∧
      invMixColumn ⟨a, a, mul3 a, mul2 a⟩ = ⟨0#8, 0#8, 0#8, a⟩ := by
  simp only [invMixColumn, mul2, mul3, mul4, mul8, mul9, mul11, mul13, mul14, xtime_xor]
  simp [BitVec.xor_assoc, BitVec.xor_comm, xor_left_comm]

/-- A mixed column is the sum of what each of its bytes gives, and InvMixColumns takes that sum term by term. -/
theorem invMixColumn_mixColumn (q : Quad) : invMixColumn (mixColumn q) = q := by
  obtain ⟨a, b, c, d⟩ := q
  have hsum : mixColumn ⟨a, b, c, d⟩ =
      ((Quad.xor ⟨mul2 a, a, a, mul3 a⟩ ⟨mul3 b, mul2 b, b, b⟩).xor ⟨c, mul3 c, mul2 c, c⟩).xor
        ⟨d, d, mul3 d, mul2 d⟩ := rfl
  obtain ⟨ha, -⟩ := invMixColumn_mixed a
  obtain ⟨-, hb, -⟩ := invMixColumn_mixed b
  obtain ⟨-, -, hc, -⟩ := invMixColumn_mixed c
  obtain ⟨-, -, -, hd⟩ := invMixColumn_mixed d
  rw [hsum, invMixColumn_xor, invMixColumn_xor, invMixColumn_xor, ha, hb, hc, hd]
  simp [Quad.xor]

theorem invMixColumns_mixColumns (s : Block) : invMixColumns (mixColumns s) = s := by
  simp only [invMixColumns, mixColumns, mapColumns, invMixColumn_mixColumn]

/-! ### Rounds (R187) -/

section
variable (k : Block)

theorem addRoundKey_addRoundKey (j : Nat) (s : Block) : addRoundKey k j (addRoundKey k j s) = s :=
  Block.xor_xor_self s (roundKey k j)

/-- InvSubBytes after InvShiftRows undoes ShiftRows after SubBytes. -/
theorem invSubBytes_invShiftRows (s : Block) : invSubBytes (invShiftRows (shiftRows (subBytes s))) = s := by
  rw [invShiftRows_shiftRows, invSubBytes_subBytes]

/-- Between the substitutions of two rounds, `j` rounds of decryption undo `j` rounds of encryption. -/
theorem decRounds_encRounds (j : Nat) (s : Block) :
    decRounds k j (shiftRows (subBytes (encRounds k j s))) = shiftRows (subBytes s) := by
  induction j with
  | zero => rfl
  | succ j ih =>
    rw [decRounds, invSubBytes_invShiftRows, encRounds, addRoundKey_addRoundKey, invMixColumns_mixColumns, ih]

/-- The inverse cipher undoes the cipher (R187). -/
theorem aesDec_aesEnc (b : Block) : aesDec k (aesEnc k b) = b := by
  rw [aesDec, aesEnc, addRoundKey_addRoundKey, decRounds_encRounds, invSubBytes_invShiftRows,
    addRoundKey_addRoundKey]

end

end Sys2Proof.Machine

/-! Cipher-block chaining (R165, R166, R168): both directions as one chain of blocks, each of its blocks from the
blocks before, and decryption of a ciphertext. -/

namespace Sys2Proof

/-- The bytes after a block's sixteen. -/
theorem Block.drop_toBytes_append (b : Block) (x : List Byte) (m : Nat) :
    (b.toBytes ++ x).drop (16 + m) = x.drop m := by
  rw [← List.drop_drop, List.drop_left' b.length_toBytes]

namespace Machine

/-! ### A chain of blocks -/

section
variable {out next : Block → Block → Block}

/-- `n` blocks of `x` in a chain: each makes, with the block carried to it, a block of the output (`out`) and the
block carried on (`next`). -/
def chainedBlocks (out next : Block → Block → Block) : Nat → Block → List Byte → List Byte
  | 0, _, _ => []
  | n + 1, prev, x =>
    (out prev (Block.ofBytes x)).toBytes ++
      chainedBlocks out next n (next (Block.ofBytes x) (out prev (Block.ofBytes x))) (x.drop 16)

/-- CBC encryption carries the ciphertext block on (R166). -/
theorem cbcEncryptBlocks_eq_chainedBlocks (k : Block) (n : Nat) (prev : Block) (q : List Byte) :
    cbcEncryptBlocks k n prev q = chainedBlocks (fun c b => aesEnc k (b.xor c)) (fun _ c => c) n prev q := by
  induction n generalizing prev q with
  | zero => rfl
  | succ n ih => rw [cbcEncryptBlocks, chainedBlocks, ih]

/-- CBC decryption carries the ciphertext block on (R168). -/
theorem cbcDecryptBlocks_eq_chainedBlocks (k : Block) (n : Nat) (prev : Block) (c : List Byte) :
    cbcDecryptBlocks k n prev c = chainedBlocks (fun p b => (aesDec k b).xor p) (fun b _ => b) n prev c := by
  induction n generalizing prev c with
  | zero => rfl
  | succ n ih => rw [cbcDecryptBlocks, chainedBlocks, ih]

/-- Block 0 of a chain is made from the first block and the one the chain begins with. -/
theorem ofBytes_chainedBlocks {n : Nat} (h : 0 < n) (prev : Block) (x : List Byte) :
    Block.ofBytes (chainedBlocks out next n prev x) = out prev (Block.ofBytes x) := by
  obtain ⟨m, rfl⟩ := Nat.exists_eq_succ_of_ne_zero h.ne'
  rw [chainedBlocks, Block.ofBytes_append]

/-- Block `i + 1` of a chain is made from block `i + 1` of the input and from what block `i` carries on. -/
theorem ofBytes_drop_chainedBlocks {n i : Nat} (h : i + 1 < n) (prev : Block) (x : List Byte) :
    Block.ofBytes ((chainedBlocks out next n prev x).drop (16 * (i + 1))) =
      out (next (Block.ofBytes (x.drop (16 * i)))
          (Block.ofBytes ((chainedBlocks out next n prev x).drop (16 * i))))
        (Block.ofBytes (x.drop (16 * (i + 1)))) := by
  obtain ⟨m, rfl⟩ : ∃ m, n = m + 1 := ⟨n - 1, by omega⟩
  induction i generalizing m prev x with
  | zero =>
    rw [Nat.mul_zero, List.drop_zero, List.drop_zero, chainedBlocks, Block.ofBytes_append, Nat.zero_add, Nat.mul_one,
      List.drop_left' (Block.length_toBytes _), ofBytes_chainedBlocks (by omega)]
  | succ i ih =>
    obtain ⟨l, rfl⟩ : ∃ l, m = l + 1 := ⟨m - 1, by omega⟩
    rw [chainedBlocks, Nat.mul_succ 16 (i + 1), Nat.add_comm _ 16, Block.drop_toBytes_append, ih _ _ _ (by omega),
      Nat.mul_succ 16 i, Nat.add_comm _ 16, Block.drop_toBytes_append, List.drop_drop, List.drop_drop]

end

/-! ### Decryption of a ciphertext (R170) -/

/-- CBC decryption of the first blocks of a CBC ciphertext, with the same key and IV, gives them back. -/
theorem cbcDecryptBlocks_cbcEncryptBlocks (k : Block) (n : Nat) (prev : Block) {q : List Byte}
    (h : q.length = 16 * n) : cbcDecryptBlocks k n prev (cbcEncryptBlocks k n prev q) = q := by
  induction n generalizing prev q with
  | zero => exact (List.eq_nil_of_length_eq_zero h).symm
  | succ n ih =>
    rw [cbcEncryptBlocks, cbcDecryptBlocks, Block.ofBytes_append, List.drop_left' (Block.length_toBytes _),
      ih _ (by rw [List.length_drop]; omega), aesDec_aesEnc, Block.xor_xor_self,
      Block.toBytes_ofBytes_take q (by omega), List.take_append_drop]

/-- CBC decryption undoes CBC encryption of whole blocks, under the same key and IV (R170). -/
theorem cbcDecrypt_cbcEncrypt (k : Block) (iv : List Byte) {q : List Byte} (h : q.length % 16 = 0) :
    cbcDecrypt k iv (cbcEncrypt k iv q) = q := by
  rw [cbcDecrypt, length_cbcEncrypt, Nat.mul_div_cancel_left _ (by decide), cbcEncrypt]
  exact cbcDecryptBlocks_cbcEncryptBlocks k _ _ (by omega)

end Machine

end Sys2Proof

/-! The commands of the Security Layer that load the key, write it and derive an IV (R161 to R164). -/

namespace Sys2Proof.Machine

/-- A range check of a non-empty range at an address that is not `NULL` fails when the range ends beyond `BUF` (R56). -/
theorem State.not_inBuf_iff (s : State) {p : Word} {n : Nat} (hp : p ≠ nullAddr) (hn : n ≠ 0) :
    (!s.inBuf p n) = true ↔ s.bufSize < p.toNat + n := by
  rw [Bool.not_eq_true', Bool.eq_false_iff, Ne, s.inBuf_iff]
  simp [hp, hn]

/-- SET_KEY makes its four checks, then loads the key (R161). -/
theorem exec_setKey (s : State) :
    exec .setKey s =
      .next (s.checked
        [ (s.a.r0 == nullAddr, .nullAddress), (s.a.r1 == 0#32, .zeroLength), (s.a.r1 != 16#32, .wrongLength),
          (!s.inBuf s.a.r0 16, .outOfRange) ]
        fun _ => (s.setKey (Block.ofBytes (s.memRead s.a.r0.toNat 16))).done {}) := rfl

/-- GET_KEY makes its five checks, then writes the key (R162). -/
theorem exec_getKey (s : State) :
    exec .getKey s =
      .next (s.checked
        [ (s.a.r0 == nullAddr, .nullAddress), (s.a.r1 == 0#32, .zeroLength), (!s.keyValid, .keyNotSet),
          (!s.inBuf s.a.r0 s.a.r1.toNat, .outOfRange), (decide (s.a.r1.toNat < 16), .bufferTooSmall) ]
        fun _ => (s.memWrite s.a.r0.toNat s.key.toBytes).done { r0 := 16#32 }) := rfl

/-- The IV DERIVE_IV writes, byte by byte (R163): its address stands in the registers as DLL_BUILD's does. -/
theorem deriveIv_deriveIvOperands (a : Bank) :
    deriveIv (deriveIvOperands a).addr (deriveIvOperands a).acc =
      [ wordByte a.r2 0, wordByte a.r2 1, wordByte a.r3 0, wordByte a.r3 1, wordByte a.r3 2, wordByte a.r3 3,
        wordByte a.r4 0, wordByte a.r4 1 ] ++ List.replicate 8 (wordByte a.r5 0) := by
  have haddr : (deriveIvOperands a).addr = (dllBuildOperands a).addr := rfl
  have hacc : (deriveIvOperands a).acc = wordByte a.r5 0 := extractLsb'_eq_wordByte a.r5 0 0 rfl
  rw [deriveIv, haddr, addressBytes_dllBuildOperands, hacc, rep]

/-- DERIVE_IV makes its four checks, then writes the IV (R164). -/
theorem exec_deriveIv (s : State) :
    exec .deriveIv s =
      .next (s.checked
        [ (s.a.r0 == nullAddr, .nullAddress), (s.a.r1 == 0#32, .zeroLength),
          (!s.inBuf s.a.r0 s.a.r1.toNat, .outOfRange), (decide (s.a.r1.toNat < 16), .bufferTooSmall) ]
        fun _ => (s.memWrite s.a.r0.toNat (deriveIv (deriveIvOperands s.a).addr (deriveIvOperands s.a).acc)).done
          { r0 := 16#32 }) := rfl

/-- Settles O47: the four checks in order, then the sixteen bytes read are the key's. -/
theorem setKeyLoadsTheKey : Obligations.SetKeyLoadsTheKey := by
  unfold Obligations.SetKeyLoadsTheKey
  refine ⟨rfl, fun s => ?_⟩
  refine failsWith_or_of_check (exec_setKey s) ⟨rfl, rfl, rfl⟩ beq_iff_eq fun hexec hsrc => ?_
  refine failsWith_or_of_check hexec ⟨rfl, rfl, rfl⟩ beq_iff_eq fun hexec _ => ?_
  refine failsWith_or_of_check hexec ⟨rfl, rfl, rfl⟩ bne_iff_ne fun hexec _ => ?_
  refine failsWith_or_of_check hexec ⟨rfl, rfl, rfl⟩ (s.not_inBuf_iff hsrc (by decide)) fun hexec _ => ?_
  exact ⟨_, hexec, ⟨rfl, rfl, rfl⟩, ((KeepsFixed.refl s).setKey _).done {}, rfl, rfl, rfl,
    Block.toBytes_ofBytes _ (s.length_memRead _ _), fun _ => rfl⟩

/-- Settles O48: the five checks in order, then the key's bytes. -/
theorem getKeyWritesTheKey : Obligations.GetKeyWritesTheKey := by
  unfold Obligations.GetKeyWritesTheKey
  refine ⟨rfl, fun s hwf => ?_⟩
  refine failsWith_or_of_check (exec_getKey s) ⟨rfl, rfl, rfl⟩ beq_iff_eq fun hexec hdst => ?_
  refine failsWith_or_of_check hexec ⟨rfl, rfl, rfl⟩ beq_iff_eq fun hexec hcap => ?_
  refine failsWith_or_of_check hexec ⟨rfl, rfl, rfl⟩ (by simp) fun hexec _ => ?_
  have hrange := s.not_inBuf_iff hdst (BitVec.toNat_ne.mp hcap)
  refine failsWith_or_of_check hexec ⟨rfl, rfl, rfl⟩ hrange fun hexec _ => ?_
  refine failsWith_or_of_check hexec ⟨rfl, rfl, rfl⟩ decide_eq_true_iff fun hexec _ => ?_
  exact completesStoring_of_done hwf hexec

/-- Settles O49: the four checks in order, then the IV's bytes. -/
theorem deriveIvWritesTheIv : Obligations.DeriveIvWritesTheIv := by
  unfold Obligations.DeriveIvWritesTheIv
  refine ⟨rfl, fun s hwf => ?_⟩
  refine failsWith_or_of_check (exec_deriveIv s) ⟨rfl, rfl, rfl⟩ beq_iff_eq fun hexec hdst => ?_
  refine failsWith_or_of_check hexec ⟨rfl, rfl, rfl⟩ beq_iff_eq fun hexec hcap => ?_
  have hrange := s.not_inBuf_iff hdst (BitVec.toNat_ne.mp hcap)
  refine failsWith_or_of_check hexec ⟨rfl, rfl, rfl⟩ hrange fun hexec _ => ?_
  refine failsWith_or_of_check hexec ⟨rfl, rfl, rfl⟩ decide_eq_true_iff fun hexec _ => ?_
  rw [deriveIv_deriveIvOperands] at hexec
  exact completesStoring_of_done hwf hexec

end Sys2Proof.Machine

/-! ENCRYPT and DECRYPT (R165 to R170): the checks they share, what each writes past them, and DECRYPT after ENCRYPT. -/

namespace Sys2Proof.Machine

/-! ### The checks both commands make -/

section
variable {i : Instr} {s : State} {cs : List (Bool × Failure)} {e : Unit → State} {rest : Prop}

/-- The input checks of ENCRYPT and DECRYPT in order (R160); past them no address is `NULL` and no length is 0. -/
theorem cryptInputChecks_cases
    (hexec : exec i s = .next (s.checked (cryptInputChecks s (cryptOperands s.a) ++ cs) e))
    (hrest : exec i s = .next (s.checked cs e) →
      ¬ (s.a.r0 = nullAddr ∨ s.a.r2 = nullAddr ∨ s.a.r4 = nullAddr) →
      ¬ (s.a.r1 = 0#32 ∨ s.a.r3 = 0#32 ∨ s.a.r5 = 0#32) → rest) :
    if s.a.r0 = nullAddr ∨ s.a.r2 = nullAddr ∨ s.a.r4 = nullAddr then FailsWith i s 3 1
    else if s.a.r1 = 0#32 ∨ s.a.r3 = 0#32 ∨ s.a.r5 = 0#32 then FailsWith i s 3 2
    else if s.keyValid = false then FailsWith i s 3 3
    else rest := by
  refine failsWith_or_of_check hexec ⟨rfl, rfl, rfl⟩ (by simp [cryptOperands, or_assoc]) fun hexec hnull => ?_
  refine failsWith_or_of_check hexec ⟨rfl, rfl, rfl⟩ (by simp [cryptOperands, or_assoc]) fun hexec hlen => ?_
  exact failsWith_or_of_check hexec ⟨rfl, rfl, rfl⟩ (by simp) fun hexec _ => hrest hexec hnull hlen

/-- The range and overlap checks of ENCRYPT and DECRYPT in order, past the input checks (R56, R57). -/
theorem cryptRangeChecks_cases (hnull : ¬ (s.a.r0 = nullAddr ∨ s.a.r2 = nullAddr ∨ s.a.r4 = nullAddr))
    (hlen : ¬ (s.a.r1 = 0#32 ∨ s.a.r3 = 0#32 ∨ s.a.r5 = 0#32))
    (hexec : exec i s = .next (s.checked (cryptRangeChecks s (cryptOperands s.a) ++ cs) e))
    (hrest : exec i s = .next (s.checked cs e) → rest) :
    if s.bufSize < s.a.r0.toNat + s.a.r1.toNat ∨ s.bufSize < s.a.r2.toNat + s.a.r3.toNat ∨
        s.bufSize < s.a.r4.toNat + 16 then FailsWith i s 5 3
    else if (s.a.r2 ≠ s.a.r0 ∧ overlap s.a.r0 s.a.r1.toNat s.a.r2 s.a.r3.toNat = true) ∨
        overlap s.a.r4 16 s.a.r2 s.a.r3.toNat = true then FailsWith i s 5 4
    else rest := by
  simp only [not_or] at hnull hlen
  obtain ⟨hsrc, hdst, hiv⟩ := hnull
  obtain ⟨hlen, hcap, -⟩ := hlen
  refine failsWith_or_of_check hexec ⟨rfl, rfl, rfl⟩ ?_ fun hexec _ => ?_
  · rw [Bool.or_eq_true, Bool.or_eq_true, or_assoc]
    exact or_congr (s.not_inBuf_iff hsrc (BitVec.toNat_ne.mp hlen))
      (or_congr (s.not_inBuf_iff hdst (BitVec.toNat_ne.mp hcap)) (s.not_inBuf_iff hiv (by decide)))
  · exact failsWith_or_of_check hexec ⟨rfl, rfl, rfl⟩ (by simp [cryptOperands]) fun hexec _ => hrest hexec

end

/-- When the input checks of ENCRYPT and DECRYPT pass (R160). -/
theorem cryptInputChecks_pass_iff (s : State) :
    (∀ c ∈ cryptInputChecks s (cryptOperands s.a), c.1 = false) ↔
      (s.a.r0 ≠ nullAddr ∧ s.a.r2 ≠ nullAddr ∧ s.a.r4 ≠ nullAddr) ∧
        (s.a.r1 ≠ 0#32 ∧ s.a.r3 ≠ 0#32 ∧ s.a.r5 ≠ 0#32) ∧ s.keyValid = true := by
  simp [cryptInputChecks, cryptOperands, and_assoc]

/-- When the range and overlap checks of ENCRYPT and DECRYPT pass (R56, R57). -/
theorem cryptRangeChecks_pass_iff (s : State) :
    (∀ c ∈ cryptRangeChecks s (cryptOperands s.a), c.1 = false) ↔
      (s.inBuf s.a.r0 s.a.r1.toNat = true ∧ s.inBuf s.a.r2 s.a.r3.toNat = true ∧ s.inBuf s.a.r4 16 = true) ∧
        (s.a.r2 = s.a.r0 ∨ overlap s.a.r0 s.a.r1.toNat s.a.r2 s.a.r3.toNat = false) ∧
          overlap s.a.r4 16 s.a.r2 s.a.r3.toNat = false := by
  simp only [cryptRangeChecks, cryptOperands, List.forall_mem_cons]
  simp [and_assoc, or_iff_not_imp_left]

/-! ### ENCRYPT -/

/-- The block count of ENCRYPT, from the registers (R165, R167). -/
theorem encryptBlockCount_cryptOperands (a : Bank) :
    encryptBlockCount (cryptOperands a) = if a.r6 = 0#32 then (a.r1.toNat + 15) / 16 else a.r6.toNat :=
  ite_not _ _ _

/-- A padded range of `BUF` (R165). -/
theorem pad_memRead (s : State) (p n bc : Nat) :
    pad (s.memRead p n) bc = s.memRead p n ++ List.replicate (16 * bc - n) 0x2F#8 := by
  rw [pad, State.length_memRead, rep]

/-- A range of `BUF` padded to the blocks it needs (R165). -/
theorem length_pad_memRead (s : State) (p n : Nat) :
    (pad (s.memRead p n) ((n + 15) / 16)).length = 16 * ((n + 15) / 16) :=
  length_pad _ _ (by rw [State.length_memRead]; omega)

/-- ENCRYPT makes its checks in order, then writes the ciphertext (R167). -/
theorem exec_encrypt (s : State) :
    exec .encrypt s =
      .next (s.checked
        (cryptInputChecks s (cryptOperands s.a) ++
          (s.a.r5 != 16#32, .wrongLength) ::
          (decide (16 * encryptBlockCount (cryptOperands s.a) < s.a.r1.toNat), .blockCountTooSmall) ::
          (cryptRangeChecks s (cryptOperands s.a) ++
            [(decide (s.a.r3.toNat < 16 * encryptBlockCount (cryptOperands s.a)), .bufferTooSmall)]))
        fun _ => (s.memWrite s.a.r2.toNat (cbcEncrypt s.key (s.memRead s.a.r4.toNat 16)
            (pad (s.memRead s.a.r0.toNat s.a.r1.toNat) (encryptBlockCount (cryptOperands s.a))))).done
          { r0 := BitVec.ofNat 32 (16 * encryptBlockCount (cryptOperands s.a)),
            r1 := BitVec.ofNat 32 (encryptBlockCount (cryptOperands s.a)) }) := rfl

/-- Settles O50: the chain of blocks that encryption is, the checks in order, then the ciphertext. -/
theorem encryptWritesTheCiphertext : Obligations.EncryptWritesTheCiphertext := by
  unfold Obligations.EncryptWritesTheCiphertext
  refine ⟨rfl, fun key iv q hq => ?_, fun s hwf => ?_⟩
  · refine ⟨by rw [length_cbcEncrypt]; omega, fun hfirst => ?_, fun i hi => ?_⟩
    · rw [cbcEncrypt, cbcEncryptBlocks_eq_chainedBlocks, ofBytes_chainedBlocks (by omega)]
    · rw [cbcEncrypt, cbcEncryptBlocks_eq_chainedBlocks, ofBytes_drop_chainedBlocks (by omega)]
  · have hexec := exec_encrypt s
    rw [encryptBlockCount_cryptOperands, pad_memRead] at hexec
    refine cryptInputChecks_cases hexec fun hexec hnull hlen => ?_
    refine failsWith_or_of_check hexec ⟨rfl, rfl, rfl⟩ bne_iff_ne fun hexec _ => ?_
    refine failsWith_or_of_check hexec ⟨rfl, rfl, rfl⟩ decide_eq_true_iff fun hexec _ => ?_
    refine cryptRangeChecks_cases hnull hlen hexec fun hexec => ?_
    refine failsWith_or_of_check hexec ⟨rfl, rfl, rfl⟩ decide_eq_true_iff fun hexec _ => ?_
    exact completesStoring_of_done hwf hexec

/-! ### DECRYPT -/

/-- DECRYPT makes its checks in order, then writes the plaintext (R169). -/
theorem exec_decrypt (s : State) :
    exec .decrypt s =
      .next (s.checked
        (cryptInputChecks s (cryptOperands s.a) ++
          (s.a.r5 != 16#32 || decide (s.a.r1.toNat % 16 ≠ 0), .wrongLength) ::
          (cryptRangeChecks s (cryptOperands s.a) ++ [(decide (s.a.r3.toNat < s.a.r1.toNat), .bufferTooSmall)]))
        fun _ => (s.memWrite s.a.r2.toNat (cbcDecrypt s.key (s.memRead s.a.r4.toNat 16)
          (s.memRead s.a.r0.toNat s.a.r1.toNat))).done { r0 := s.a.r1 }) := rfl

/-- Settles O51: the chain of blocks that decryption is, the checks in order, then the plaintext. -/
theorem decryptWritesThePlaintext : Obligations.DecryptWritesThePlaintext := by
  unfold Obligations.DecryptWritesThePlaintext
  refine ⟨rfl, fun key iv c hc => ?_, fun s hwf => ?_⟩
  · refine ⟨by rw [length_cbcDecrypt]; omega, fun hfirst => ?_, fun i hi => ?_⟩
    · rw [cbcDecrypt, cbcDecryptBlocks_eq_chainedBlocks, ofBytes_chainedBlocks (by omega)]
    · rw [cbcDecrypt, cbcDecryptBlocks_eq_chainedBlocks, ofBytes_drop_chainedBlocks (by omega)]
  · refine cryptInputChecks_cases (exec_decrypt s) fun hexec hnull hlen => ?_
    refine failsWith_or_of_check hexec ⟨rfl, rfl, rfl⟩ (by simp) fun hexec _ => ?_
    refine cryptRangeChecks_cases hnull hlen hexec fun hexec => ?_
    refine failsWith_or_of_check hexec ⟨rfl, rfl, rfl⟩ decide_eq_true_iff fun hexec _ => ?_
    exact completesStoring_of_done hwf hexec

/-! ### DECRYPT after ENCRYPT (R170) -/

/-- What a successful ENCRYPT without an explicit block count leaves for a DECRYPT of its output (R167). -/
theorem encrypt_ok {s t : State} (hwf : Memory.wf s.buf) (ht : exec .encrypt s = .next t) (hok : t.status = 0#32)
    (hxbc : s.a.r6 = 0#32) :
    Memory.wf t.buf ∧ t.key = s.key ∧ t.keyValid = true ∧ s.a.r2 ≠ nullAddr ∧
      t.v.r0.toNat = 16 * ((s.a.r1.toNat + 15) / 16) ∧ 0 < t.v.r0.toNat ∧ t.inBuf s.a.r2 t.v.r0.toNat = true ∧
      t.memRead s.a.r2.toNat t.v.r0.toNat = cbcEncrypt s.key (s.memRead s.a.r4.toNat 16)
        (pad (s.memRead s.a.r0.toNat s.a.r1.toNat) ((s.a.r1.toNat + 15) / 16)) := by
  have hexec := exec_encrypt s
  rw [encryptBlockCount_cryptOperands, if_pos hxbc] at hexec
  obtain ⟨hchecks, heffect⟩ := checked_ok hexec ht hok
  simp only [List.forall_mem_append, List.forall_mem_cons, cryptInputChecks_pass_iff, cryptRangeChecks_pass_iff,
    decide_eq_false_iff_not] at hchecks
  obtain ⟨⟨⟨-, hdstNull, -⟩, ⟨hplen, -, -⟩, hkey⟩, -, -, ⟨⟨-, hdst, -⟩, -⟩, hcap, -⟩ := hchecks
  have hpos : s.a.r1.toNat ≠ 0 := BitVec.toNat_ne.mp hplen
  have hcount : t.v.r0.toNat = 16 * ((s.a.r1.toNat + 15) / 16) := by
    rw [heffect]
    exact Nat.mod_eq_of_lt (by omega)
  rw [hcount]
  subst heffect
  refine ⟨s.memWrite_wf _ _ hwf, rfl, hkey, hdstNull, rfl, by omega, ?_, ?_⟩
  · exact State.inBuf_of_le (s := s) hdst (by omega) (Nat.not_lt.mp hcap)
  · have hwritten := s.memRead_memWrite s.a.r2.toNat (cbcEncrypt s.key (s.memRead s.a.r4.toNat 16)
      (pad (s.memRead s.a.r0.toNat s.a.r1.toNat) ((s.a.r1.toNat + 15) / 16))) hwf
    rw [length_cbcEncrypt, length_pad_memRead, Nat.mul_div_cancel_left _ (by decide)] at hwritten
    exact (State.memRead_done _ _ _ _).trans hwritten

/-- Settles O53: DECRYPT passes its checks, and the ciphertext it reads is that of the padded plaintext. -/
theorem mode5RoundTrip : Obligations.Mode5RoundTrip := by
  unfold Obligations.Mode5RoundTrip
  intro s t b hwf ht hok hxbc hsrc hlen hdstNull hivNull hivlen hiv hdst hivIn hapart hivApart hcap
  obtain ⟨hwf', hkey, hvalid, hsrcNull, hcount, hpos, hsrcIn, hread⟩ := encrypt_ok hwf ht hok hxbc
  rw [← hsrc] at hsrcNull hsrcIn hread
  rw [← hlen] at hcount hpos hsrcIn hread ⊢
  have hlenNe : b.r1 ≠ 0#32 := BitVec.toNat_ne.mpr hpos.ne'
  have hcapNe : b.r3 ≠ 0#32 := BitVec.toNat_ne.mpr (hpos.trans_le hcap).ne'
  have hivlenNe : b.r5 ≠ 0#32 := by rw [hivlen]; decide
  have hinput := (cryptInputChecks_pass_iff (t.withArgs b)).mpr
    ⟨⟨hsrcNull, hdstNull, hivNull⟩, ⟨hlenNe, hcapNe, hivlenNe⟩, hvalid⟩
  have hrange := (cryptRangeChecks_pass_iff (t.withArgs b)).mpr ⟨⟨hsrcIn, hdst, hivIn⟩, hapart, hivApart⟩
  have hexec := exec_decrypt (t.withArgs b)
  rw [State.checked_of_pass] at hexec
  · rw [State.withArgs_memRead, State.withArgs_memRead, State.withArgs_a, State.withArgs_key, hiv, hread, hkey,
      cbcDecrypt_cbcEncrypt, pad_memRead] at hexec
    · exact completesStoring_of_done hwf' hexec
    · rw [length_pad_memRead, Nat.mul_mod_right]
  · simp only [List.forall_mem_append, List.forall_mem_cons]
    refine ⟨hinput, ?_, hrange, decide_eq_false (Nat.not_lt.mpr hcap), by simp⟩
    simp [hivlen, hcount]

end Sys2Proof.Machine

/-! What the block cipher promises of its two directions (R187). -/

namespace Sys2Proof.Machine

/-- Settles O52: each round transformation is undone by its inverse, and the rounds with MixColumns by induction on
their number (`decRounds_encRounds`). -/
theorem aesDecInvertsAesEnc : Obligations.AesDecInvertsAesEnc := by
  unfold Obligations.AesDecInvertsAesEnc
  exact aesDec_aesEnc

end Sys2Proof.Machine

/-! The value records (R200 to R202): the record that PUT_RECORD lays out, byte by byte, and the one that GET_RECORD
finds behind the fillers. -/

namespace Sys2Proof.Machine

/-! ### PUT_RECORD (R201) -/

/-- The length codes of R200 as numbers. -/
theorem isLengthCode_iff (lc : BitVec 4) :
    isLengthCode lc = true ↔ lc.toNat = 1 ∨ lc.toNat = 2 ∨ lc.toNat = 4 := by
  simp [isLengthCode, ← BitVec.toNat_inj, or_assoc]

/-- The check of a length code fails when it is none of the three (R201, R202). -/
theorem not_isLengthCode_iff (lc : BitVec 4) :
    (!isLengthCode lc) = true ↔ lc.toNat ≠ 1 ∧ lc.toNat ≠ 2 ∧ lc.toNat ≠ 4 := by
  rw [Bool.not_eq_true', Bool.eq_false_iff, Ne, isLengthCode_iff, not_or, not_or]

/-- The first bytes of a little-endian encoding encode the value's low bytes (R10). -/
theorem take_leBytes {k n : Nat} (h : k ≤ n) (v : Nat) : (leBytes n v).take k = leBytes k v := by
  induction k generalizing n v with
  | zero => rfl
  | succ k ih =>
    cases n with
    | zero => omega
    | succ n => rw [leBytes, List.take_succ_cons, ih (by omega), leBytes]

/-- The length code PUT_RECORD is given stands in the low four bits of `A2` (R201). -/
theorem putRecordOperands_lc (a : Bank) : (putRecordOperands a).lc.toNat = a.r2.toNat % 16 :=
  BitVec.extractLsb'_toNat 0 4 a.r2

/-- A DIF is made of the low six bits of `A2` (R200, R201). -/
theorem putRecordOperands_dif (a : Bank) :
    0#2 ++ (putRecordOperands a).fn ++ (putRecordOperands a).lc = BitVec.ofNat 8 (a.r2.toNat % 64) := by
  apply BitVec.eq_of_toNat_eq
  have hfn : (putRecordOperands a).fn.toNat = a.r2.toNat / 16 % 4 := toNat_extractLsb' a.r2 4 2
  rw [BitVec.toNat_append, BitVec.toNat_append, BitVec.toNat_ofNat, BitVec.toNat_ofNat, Nat.zero_mod,
    Nat.zero_shiftLeft, Nat.zero_or, hfn, putRecordOperands_lc, ← Nat.shiftLeft_add_eq_or_of_lt (by omega), Nat.shiftLeft_eq]
  omega

/-- The record PUT_RECORD writes, byte by byte (R200, R201). -/
theorem record_putRecordOperands (a : Bank) (h : a.r2.toNat % 16 ≤ 4) :
    record (putRecordOperands a).fn (putRecordOperands a).lc (putRecordOperands a).vif (putRecordOperands a).v.toNat =
      [BitVec.ofNat 8 (a.r2.toNat % 64), wordByte a.r2 1] ++
        [wordByte a.r3 0, wordByte a.r3 1, wordByte a.r3 2, wordByte a.r3 3].take (a.r2.toNat % 16) := by
  have hvif : (putRecordOperands a).vif = wordByte a.r2 1 := extractLsb'_eq_wordByte a.r2 8 1 rfl
  rw [record, putRecordOperands_dif, hvif, recordSize, putRecordOperands_lc, ← leBytes_four, take_leBytes h]
  rfl

/-- PUT_RECORD makes its three checks, then writes the record (R201). -/
theorem exec_putRecord (s : State) :
    exec .putRecord s =
      .next (s.checked
        [ (!isLengthCode (putRecordOperands s.a).lc, .difForm),
          (!s.inBuf s.a.r0 s.a.r1.toNat, .outOfRange),
          (decide (s.a.r1.toNat < 2 + s.a.r2.toNat % 16), .bufferTooSmall) ]
        fun _ => State.done
          (s.memWrite s.a.r0.toNat (record (putRecordOperands s.a).fn (putRecordOperands s.a).lc
            (putRecordOperands s.a).vif (putRecordOperands s.a).v.toNat))
          { r0 := BitVec.ofNat 32 (2 + s.a.r2.toNat % 16) }) := by
  rw [← putRecordOperands_lc]
  rfl

/-- Settles O54: the three checks in order, then the record's bytes. -/
theorem putRecordWritesTheRecord : Obligations.PutRecordWritesTheRecord := by
  unfold Obligations.PutRecordWritesTheRecord
  refine ⟨rfl, fun s hwf => ?_⟩
  have hcode := not_isLengthCode_iff (putRecordOperands s.a).lc
  rw [putRecordOperands_lc] at hcode
  refine failsWith_or_of_check (exec_putRecord s) ⟨rfl, rfl, rfl⟩ hcode fun hexec hlength => ?_
  refine failsWith_or_of_check hexec ⟨rfl, rfl, rfl⟩ (by simp) fun hexec _ => ?_
  refine failsWith_or_of_check hexec ⟨rfl, rfl, rfl⟩ decide_eq_true_iff fun hexec _ => ?_
  rw [record_putRecordOperands s.a (by omega)] at hexec
  exact completesStoring_of_done hwf hexec

/-! ### GET_RECORD (R202) -/

/-- A payload of fillers only (R202). -/
theorem leadingFillers_of_forall {d : List Byte} (h : ∀ j, j < d.length → byteAt d j = filler) :
    leadingFillers d = d.length := by
  induction d with
  | nil => rfl
  | cons b d ih =>
    have hb : b = filler := h 0 (Nat.succ_pos _)
    rw [leadingFillers, if_pos hb, ih fun j hj => h (j + 1) (Nat.succ_lt_succ hj), List.length_cons]

/-- A payload with its first other byte at `i` (R202). -/
theorem leadingFillers_of_first {d : List Byte} {i : Nat} (hfill : ∀ j, j < i → byteAt d j = filler)
    (hstop : byteAt d i ≠ filler) (hi : i < d.length) : leadingFillers d = i := by
  induction d generalizing i with
  | nil => simp at hi
  | cons b d ih =>
    cases i with
    | zero =>
      have hb : b ≠ filler := hstop
      rw [leadingFillers, if_neg hb]
    | succ i =>
      have hb : b = filler := hfill 0 (Nat.succ_pos _)
      rw [leadingFillers, if_pos hb,
        ih (fun j hj => hfill (j + 1) (Nat.succ_lt_succ hj)) hstop (Nat.lt_of_succ_lt_succ hi)]

/-- The value of a byte sequence is below the number of sequences of its length (R10). -/
theorem fromLE_lt (x : List Byte) : fromLE x < 2 ^ (8 * x.length) := by
  induction x with
  | nil => exact Nat.one_pos
  | cons b x ih =>
    have hpow : 2 ^ (8 * (x.length + 1)) = 256 * 2 ^ (8 * x.length) := by rw [Nat.mul_succ, Nat.pow_add, Nat.mul_comm]
    rw [fromLE, List.length_cons, hpow]
    omega

/-- The sign extension of one to four bytes as arithmetic (R202). -/
theorem signedValue_eq {x : List Byte} {k : Nat} (hlen : x.length = k) (hmin : 1 ≤ k) (hmax : k ≤ 4) :
    signedValue x = BitVec.ofNat 32
      (if fromLE x < 2 ^ (8 * k - 1) then fromLE x else fromLE x + 2 ^ 32 - 2 ^ (8 * k)) := by
  subst hlen
  have hlt := fromLE_lt x
  have hwidth : 2 ^ (8 * x.length) ≤ 2 ^ 32 := Nat.pow_le_pow_right (by decide) (by omega)
  apply BitVec.eq_of_toNat_eq
  rw [signedValue, BitVec.toNat_signExtend, BitVec.msb_eq_decide, BitVec.toNat_setWidth, BitVec.toNat_ofNat,
    BitVec.toNat_ofNat, Nat.mod_eq_of_lt hlt, Nat.mod_eq_of_lt (hlt.trans_le hwidth)]
  simp only [decide_eq_true_eq]
  by_cases hsign : fromLE x < 2 ^ (8 * x.length - 1)
  · rw [if_neg (Nat.not_le.mpr hsign), if_pos hsign, Nat.mod_eq_of_lt (hlt.trans_le hwidth), Nat.add_zero]
  · rw [if_pos (Nat.not_lt.mp hsign), if_neg hsign, Nat.mod_eq_of_lt (by omega)]
    omega

/-- The value bytes of a record in a range read, sign-extended, from the bytes of `BUF` (R202). -/
theorem signedValue_of_memRead (s : State) (p : Nat) {n i k : Nat} (hcode : k = 1 ∨ k = 2 ∨ k = 4)
    (h : i + 2 + k ≤ n) :
    let b := fun j => (s.readByte (p + j)).toNat
    let u := if k = 1 then b (i + 2) else if k = 2 then b (i + 2) + 256 * b (i + 3)
      else b (i + 2) + 256 * b (i + 3) + 65536 * b (i + 4) + 16777216 * b (i + 5)
    signedValue (((s.memRead p n).drop (i + 2)).take k) =
      BitVec.ofNat 32 (if u < 2 ^ (8 * k - 1) then u else u + 2 ^ 32 - 2 ^ (8 * k)) := by
  have hlen : (((s.memRead p n).drop (i + 2)).take k).length = k := by
    rw [s.take_drop_memRead p h, s.length_memRead]
  rw [signedValue_eq hlen (by omega) (by omega)]
  rcases hcode with rfl | rfl | rfl
  · rw [s.take_drop_memRead p h, fromLE_memRead_one]
    rfl
  · rw [fromLE_two_of_memRead s p h]
    rfl
  · rw [fromLE_four_of_memRead s p h]
    rfl

/-- GET_RECORD makes its two checks, then takes the payload it reads apart (R202). -/
theorem exec_getRecord (s : State) :
    exec .getRecord s =
      .next (s.checked [(s.a.r1 == 0#32, .lengthRange), (!s.inBuf s.a.r0 s.a.r1.toNat, .outOfRange)]
        fun _ => getRecordFrom s (s.memRead s.a.r0.toNat s.a.r1.toNat)) := rfl

/-- What GET_RECORD makes of a payload of fillers only (R202). -/
theorem getRecordFrom_of_fillers (s : State) {d : List Byte} (h : leadingFillers d = d.length) :
    getRecordFrom s d = s.done { r0 := trunc32 d.length, r5 := trunc32 d.length } := by
  rw [getRecordFrom, if_pos h, h]

/-- What GET_RECORD makes of a payload with its first other byte at `i` (R202). -/
theorem getRecordFrom_of_record (s : State) {d : List Byte} {i : Nat} (h : leadingFillers d = i) (hi : i ≠ d.length) :
    getRecordFrom s d = s.checked
      [ ((byteAt d i).extractLsb' 6 2 != 0#2 || !isLengthCode ((byteAt d i).extractLsb' 0 4), .difForm),
        (decide (d.length - i < 2 + (byteAt d i).toNat % 16), .lengthRange) ]
      fun _ => s.done
        { r0 := trunc32 (i + 2 + (byteAt d i).toNat % 16), r1 := 1#32, r2 := (byteAt d i).setWidth 32,
          r3 := (byteAt d (i + 1)).setWidth 32,
          r4 := signedValue ((d.drop (i + 2)).take ((byteAt d i).toNat % 16)), r5 := trunc32 i,
          r6 := ((byteAt d i).extractLsb' 4 2).setWidth 32, r7 := trunc32 ((byteAt d i).toNat % 16) } := by
  have hsize : recordSize ((byteAt d i).extractLsb' 0 4) = (byteAt d i).toNat % 16 := BitVec.extractLsb'_toNat 0 4 _
  subst h
  rw [← hsize]
  exact if_neg hi

/-- The check of a DIF as arithmetic (R200, R202). -/
theorem difForm_iff (dif : Byte) :
    (dif.extractLsb' 6 2 != 0#2 || !isLengthCode (dif.extractLsb' 0 4)) = true ↔
      64 ≤ dif.toNat ∨ (dif.toNat % 16 ≠ 1 ∧ dif.toNat % 16 ≠ 2 ∧ dif.toNat % 16 ≠ 4) := by
  have hcode : (dif.extractLsb' 0 4).toNat = dif.toNat % 16 := BitVec.extractLsb'_toNat 0 4 dif
  have htop : (dif.extractLsb' 6 2).toNat = dif.toNat / 64 % 4 := toNat_extractLsb' dif 6 2
  rw [Bool.or_eq_true, bne_iff_ne, ← BitVec.toNat_ne_iff_ne, htop, not_isLengthCode_iff, hcode, BitVec.toNat_ofNat]
  omega

/-- Settles O55: the two checks in order; then, at the first byte that is no filler, the two checks of the record and
its fields. -/
theorem getRecordReturnsTheRecord : Obligations.GetRecordReturnsTheRecord := by
  unfold Obligations.GetRecordReturnsTheRecord
  refine ⟨rfl, fun s => ?_⟩
  refine failsWith_or_of_check (exec_getRecord s) ⟨rfl, rfl, rfl⟩ ?_ fun hexec _ => ?_
  · rw [beq_iff_eq, ← BitVec.toNat_inj]
    rfl
  refine failsWith_or_of_check hexec ⟨rfl, rfl, rfl⟩ (by simp) fun hexec _ => ?_
  have hlen := s.length_memRead s.a.r0.toNat s.a.r1.toNat
  have hbyte {j : Nat} (hj : j < s.a.r1.toNat) :
      byteAt (s.memRead s.a.r0.toNat s.a.r1.toNat) j = s.readByte (s.a.r0.toNat + j) := s.getD_memRead _ _ j hj
  have hfiller {j : Nat} (hj : j < s.a.r1.toNat) : byteAt (s.memRead s.a.r0.toNat s.a.r1.toNat) j = filler ↔
      (s.readByte (s.a.r0.toNat + j)).toNat = 0x2F := by rw [hbyte hj, ← BitVec.toNat_inj]; rfl
  refine ⟨fun hall => ?_, fun i hi hfill hstop => ?_⟩
  · have hcount := leadingFillers_of_forall fun j hj => (hfiller (hlen ▸ hj)).mpr (hall j (hlen ▸ hj))
    rw [State.checked_nil, getRecordFrom_of_fillers s hcount, hlen, trunc32, BitVec.ofNat_toNat, BitVec.setWidth_eq]
      at hexec
    exact completesSilently_of_done hexec
  · have hcount := leadingFillers_of_first (fun j hj => (hfiller (hj.trans hi)).mpr (hfill j hj))
      (mt (hfiller hi).mp hstop) (hi.trans_eq hlen.symm)
    rw [State.checked_nil, getRecordFrom_of_record s hcount (hi.trans_eq hlen.symm).ne, hbyte hi, hlen] at hexec
    refine failsWith_or_of_check hexec ⟨rfl, rfl, rfl⟩ (difForm_iff _) fun hexec hform => ?_
    refine failsWith_or_of_check hexec ⟨rfl, rfl, rfl⟩ decide_eq_true_iff fun hexec hcut => ?_
    beta_reduce at hform hcut
    have hfn : ((s.readByte (s.a.r0.toNat + i)).extractLsb' 4 2).toNat =
        (s.readByte (s.a.r0.toNat + i)).toNat / 16 := by
      rw [toNat_extractLsb']
      omega
    rw [signedValue_of_memRead s _ (by omega) (by omega), setWidth_eq_ofNat hfn,
      setWidth_byteAt_memRead s _ (by omega), ← BitVec.ofNat_toNat] at hexec
    exact completesSilently_of_done hexec

end Sys2Proof.Machine

/-! The meter frame (R203, R204) that BUILD_METER_FRAME lays out, byte by byte. -/

namespace Sys2Proof.Machine

/-- The fields of `A2` in BUILD_METER_FRAME (R204). -/
theorem meterOperands_toNat (a : Bank) :
    ((meterOperands a).encrypt = true ↔ a.r2.toNat / 2 ^ 17 % 2 = 1) ∧
      (meterOperands a).periodic.toNat = a.r2.toNat / 2 ^ 16 % 2 ∧
      (meterOperands a).access.toNat = a.r2.toNat / 256 % 4 := by
  refine ⟨?_, toNat_extractLsb' a.r2 16 1, toNat_extractLsb' a.r2 8 2⟩
  simp [meterOperands, BitVec.getLsbD, Nat.testBit_eq_decide_div_mod_eq]

/-- The access number of a meter frame is byte 0 of `A2` (R204). -/
theorem meterOperands_acc (a : Bank) : (meterOperands a).acc = wordByte a.r2 0 := extractLsb'_eq_wordByte a.r2 0 0 rfl

/-- The configuration word of a meter frame as a number (R103, R204). -/
theorem meterCw_toNat (a : Bank) :
    (meterCw (meterOperands a)).toNat =
      (if a.r2.toNat / 2 ^ 17 % 2 = 1 then 0x510 else 0) + 8192 * (a.r2.toNat / 2 ^ 16 % 2) +
        16384 * (a.r2.toNat / 256 % 4) := by
  obtain ⟨hencrypt, hperiodic, haccess⟩ := meterOperands_toNat a
  simp only [meterCw, hencrypt]
  split <;> simp [builtCw, cwPack_toNat, hperiodic, haccess]

/-- The two records of a meter frame, byte by byte (R200, R203). -/
def meterRecords (a : Bank) : List Byte :=
  [ 0x04#8, 0x13#8, wordByte a.r3 0, wordByte a.r3 1, wordByte a.r3 2, wordByte a.r3 3, 0x02#8, 0x3B#8,
    wordByte a.r4 0, wordByte a.r4 1 ]

/-- The payload of a meter frame is its records, behind two fillers when it is to be encrypted (R203). -/
theorem meterPayload_meterOperands (a : Bank) (e : Bool) :
    meterPayload (meterOperands a).vol (meterOperands a).flow e =
      (if e then [filler, filler] else []) ++ meterRecords a := by
  have hvol : leBytes 4 (meterOperands a).vol.toNat =
      [wordByte a.r3 0, wordByte a.r3 1, wordByte a.r3 2, wordByte a.r3 3] := leBytes_four a.r3
  have hflow : leBytes 2 (meterOperands a).flow.toNat = [wordByte a.r4 0, wordByte a.r4 1] := leBytes_two a.r4
  have hfour : recordSize 4#4 = 4 := rfl
  have htwo : recordSize 2#4 = 2 := rfl
  rw [meterPayload, List.append_assoc, record, record, hfour, htwo, hvol, hflow]
  rfl

/-- The payload of a meter frame as it stands in the frame, from the registers (R204). -/
theorem meterBody_meterOperands (s : State) :
    meterBody s (meterOperands s.a) =
      if s.a.r2.toNat / 2 ^ 17 % 2 = 1 then
        cbcEncrypt s.key (builtIvAddress .stlBuild s ++ List.replicate 8 (wordByte s.a.r2 0))
          ([0x2F#8, 0x2F#8] ++ meterRecords s.a ++ [0x2F#8, 0x2F#8, 0x2F#8, 0x2F#8])
      else meterRecords s.a := by
  obtain ⟨hencrypt, -, -⟩ := meterOperands_toNat s.a
  simp only [meterBody, meterPayload_meterOperands, hencrypt]
  split
  case isTrue =>
    rw [deriveIv, addressBytes_dev, meterOperands_acc]
    rfl
  case isFalse => rfl

/-- `lField` of a meter frame is its length without the field itself (R108, R204). -/
theorem lField_meterLength (o : MeterOps) :
    lField (meterLength o) false = some (BitVec.ofNat 8 (meterLength o - 1)) := by
  rw [meterLength]
  split <;> rfl

/-- The frame, byte by byte up to its payload (R204). -/
theorem meterFrame_meterOperands (s : State) :
    meterFrame s (meterOperands s.a) =
      [BitVec.ofNat 8 (meterLength (meterOperands s.a) - 1), 0x44#8] ++ builtIvAddress .stlBuild s ++
        [0x7A#8, wordByte s.a.r2 0, 0x00#8, BitVec.ofNat 8 (meterCw (meterOperands s.a)).toNat,
          BitVec.ofNat 8 ((meterCw (meterOperands s.a)).toNat / 256)] ++ meterBody s (meterOperands s.a) := by
  rw [meterFrame, lField_meterLength, dllHeader, addressBytes_dev, stlHeader, leBytes_cw, meterOperands_acc]
  rfl

/-- The payload of a meter frame is as long in the frame as R204 says. -/
theorem length_meterBody (s : State) (o : MeterOps) : (meterBody s o).length = if o.encrypt then 16 else 10 := by
  unfold meterBody
  cases o.encrypt <;> simp [length_meterPayload, length_cbcEncrypt, length_pad]

/-- BUILD_METER_FRAME makes its three checks, then writes the frame (R204). -/
theorem exec_buildMeterFrame (s : State) :
    exec .buildMeterFrame s =
      .next (s.checked
        [ ((meterOperands s.a).encrypt && !s.keyValid, .keyNotSet),
          (!s.inBuf s.a.r0 s.a.r1.toNat, .outOfRange),
          (decide (s.a.r1.toNat < meterLength (meterOperands s.a)), .bufferTooSmall) ]
        fun _ => State.done
          (s.memWrite s.a.r0.toNat (meterFrame s (meterOperands s.a)))
          { r0 := BitVec.ofNat 32 (meterLength (meterOperands s.a)),
            r1 := BitVec.ofNat 32 (meterLength (meterOperands s.a) - 1),
            r2 := (meterCw (meterOperands s.a)).setWidth 32,
            r3 := if (meterOperands s.a).encrypt then 1#32 else 0#32,
            r4 := if (meterOperands s.a).encrypt then 12#32 else 10#32,
            r5 := if (meterOperands s.a).encrypt then 16#32 else 10#32 }) := by
  have hbefore : trunc32 (meterPayload (meterOperands s.a).vol (meterOperands s.a).flow
      (meterOperands s.a).encrypt).length = if (meterOperands s.a).encrypt then 12#32 else 10#32 := by
    rw [length_meterPayload, apply_ite trunc32]
    rfl
  have hafter : trunc32 (meterBody s (meterOperands s.a)).length =
      if (meterOperands s.a).encrypt then 16#32 else 10#32 := by
    rw [length_meterBody, apply_ite trunc32]
    rfl
  rw [← hbefore, ← hafter]
  rfl

/-- Settles O56: the three checks in order, then the frame's bytes. -/
theorem buildMeterFrameWritesTheFrame : Obligations.BuildMeterFrameWritesTheFrame := by
  unfold Obligations.BuildMeterFrameWritesTheFrame
  refine ⟨rfl, fun s hwf => ?_⟩
  have hexec := exec_buildMeterFrame s
  rw [meterFrame_meterOperands, meterBody_meterOperands, setWidth_eq_ofNat (meterCw_toNat s.a), meterCw_toNat] at hexec
  obtain ⟨hencrypt, -, -⟩ := meterOperands_toNat s.a
  simp only [meterLength, hencrypt] at hexec
  refine failsWith_or_of_check hexec ⟨rfl, rfl, rfl⟩ (by simp [hencrypt]) fun hexec _ => ?_
  refine failsWith_or_of_check hexec ⟨rfl, rfl, rfl⟩ (by simp) fun hexec _ => ?_
  refine failsWith_or_of_check hexec ⟨rfl, rfl, rfl⟩ decide_eq_true_iff fun hexec _ => ?_
  exact completesStoring_of_done hwf hexec

end Sys2Proof.Machine

/-! The sequence of commands equal to BUILD_METER_FRAME (R204, Equivalence): each command of the sequence replaces one
stretch of `BUF`, and the stretches make up the frame. -/

namespace Sys2Proof.Machine

/-! ### A stretch of `BUF` replaced -/

/-- What one command of the sequence changes, seen by the next: `BUF` reads as before but for the bytes `x` at `p`; the
device address, the key and the size of `BUF` are kept, and the memory is in canonical form. -/
structure Patched (s t : State) (p : Nat) (x : List Byte) : Prop where
  dev : t.dev = s.dev
  key : t.key = s.key
  keyValid : t.keyValid = s.keyValid
  bufSize : t.bufSize = s.bufSize
  wf : Memory.wf t.buf
  bytes : ∀ k, t.readByte k = if p ≤ k ∧ k < p + x.length then x.getD (k - p) 0#8 else s.readByte k

section
variable {s t u : State} {p : Nat} {x y : List Byte}

/-- Nothing replaced. -/
theorem Patched.refl (hwf : Memory.wf s.buf) (p : Nat) : Patched s s p [] :=
  ⟨rfl, rfl, rfl, rfl, hwf, fun k => (if_neg (by simp)).symm⟩

/-- A write replaces the stretch it writes (R59). -/
theorem Patched.memWrite (hwf : Memory.wf s.buf) (p : Nat) (x : List Byte) : Patched s (s.memWrite p x) p x :=
  ⟨rfl, rfl, rfl, rfl, s.memWrite_wf p x hwf, fun k => s.readByte_memWrite p x k hwf⟩

/-- A command that writes and ends replaces what it writes, whatever arguments it runs on. -/
theorem Patched.store (hwf : Memory.wf s.buf) (b v : Bank) (p : Nat) (x : List Byte) :
    Patched s (((s.withArgs b).memWrite p x).done v) p x :=
  ⟨rfl, rfl, rfl, rfl, s.memWrite_wf p x hwf, fun k => s.readByte_memWrite p x k hwf⟩

/-- The stretch replaced reads as what replaced it (R59). -/
theorem Patched.memRead (h : Patched s t p x) : t.memRead p x.length = x := by
  refine List.ext_getElem (t.length_memRead p _) fun i hi hix => ?_
  have hbyte := t.getD_memRead p x.length i hix
  rw [h.bytes, if_pos (by omega), Nat.add_sub_cancel_left, List.getD_eq_getElem _ _ hi,
    List.getD_eq_getElem _ _ hix] at hbyte
  exact hbyte

/-- Two states that replace the same stretch by the same bytes read the same. -/
theorem Patched.readByte_eq (ht : Patched s t p x) (hu : Patched s u p x) (k : Nat) : t.readByte k = u.readByte k :=
  (ht.bytes k).trans (hu.bytes k).symm

/-- A byte of two sequences that stand one behind the other from `p` up. -/
theorem getD_append_at (p k : Nat) (x y : List Byte) (c : Byte) :
    (if p ≤ k ∧ k < p + (x ++ y).length then (x ++ y).getD (k - p) 0#8 else c) =
      if p ≤ k ∧ k < p + x.length then x.getD (k - p) 0#8
      else if p + x.length ≤ k ∧ k < p + x.length + y.length then y.getD (k - (p + x.length)) 0#8 else c := by
  rw [List.length_append]
  by_cases hx : p ≤ k ∧ k < p + x.length
  · rw [if_pos (by omega), if_pos hx, List.getD_append _ _ _ _ (by omega)]
  · by_cases hy : p + x.length ≤ k ∧ k < p + x.length + y.length
    · rw [if_pos (by omega), if_neg hx, if_pos hy, List.getD_append_right _ _ _ _ (by omega), Nat.sub_sub]
    · rw [if_neg (by omega), if_neg hx, if_neg hy]

/-- What two commands replace one after the other, once the bytes are known. -/
theorem Patched.trans {q r : Nat} {z : List Byte} (ht : Patched s t p x) (hu : Patched t u q y)
    (hbytes : ∀ k, u.readByte k = if r ≤ k ∧ k < r + z.length then z.getD (k - r) 0#8 else s.readByte k) :
    Patched s u r z :=
  ⟨hu.dev.trans ht.dev, hu.key.trans ht.key, hu.keyValid.trans ht.keyValid, hu.bufSize.trans ht.bufSize, hu.wf, hbytes⟩

/-- A stretch replaced, then the one behind it. -/
theorem Patched.append (ht : Patched s t p x) (hu : Patched t u (p + x.length) y) : Patched s u p (x ++ y) := by
  refine ht.trans hu fun k => ?_
  rw [getD_append_at, hu.bytes, ht.bytes]
  by_cases hx : p ≤ k ∧ k < p + x.length
  · rw [if_neg (by omega), if_pos hx, if_pos hx]
  · rw [if_neg hx, if_neg hx]

/-- A stretch replaced, then the one before it. -/
theorem Patched.prepend (ht : Patched s t (p + x.length) y) (hu : Patched t u p x) : Patched s u p (x ++ y) :=
  ht.trans hu fun k => by rw [getD_append_at, hu.bytes, ht.bytes]

/-- A stretch replaced, then again from the same place by at least as many bytes. -/
theorem Patched.replace (ht : Patched s t p x) (hu : Patched t u p y) (hle : x.length ≤ y.length) :
    Patched s u p y := by
  refine ht.trans hu fun k => ?_
  rw [hu.bytes, ht.bytes]
  by_cases hy : p ≤ k ∧ k < p + y.length
  · rw [if_pos hy, if_pos hy]
  · rw [if_neg hy, if_neg hy, if_neg (by omega)]

end

/-! ### The commands of the sequence -/

/-- An address inside `BUF` fits a register (R7). -/
theorem toNat_address {s : State} {p n : Nat} (hsize : s.bufSize ≤ 2 ^ 24) (hfit : p + n ≤ s.bufSize) :
    (BitVec.ofNat 32 p).toNat = p :=
  Nat.mod_eq_of_lt (by omega)

/-- No address inside `BUF` is `NULL` (R7, R58). -/
theorem address_ne_null {s : State} {p n : Nat} (hsize : s.bufSize ≤ 2 ^ 24) (hfit : p + n ≤ s.bufSize) :
    BitVec.ofNat 32 p ≠ nullAddr := by
  have hlow : p < nullAddr.toNat := lt_of_le_of_lt (by omega : p ≤ 2 ^ 24) (by decide)
  rw [← BitVec.toNat_ne_iff_ne, toNat_address hsize hfit]
  exact hlow.ne

/-- A range inside `BUF` passes `InBuf` (R56). -/
theorem State.inBuf_ofNat {s : State} {p n : Nat} (hsize : s.bufSize ≤ 2 ^ 24) (hfit : p + n ≤ s.bufSize) :
    s.inBuf (BitVec.ofNat 32 p) n = true := by
  rw [State.inBuf_iff, toNat_address hsize hfit]
  exact .inr ⟨address_ne_null hsize hfit, hfit⟩

/-- A command whose checks all pass runs on the given arguments and leaves its effect (R220, R223). -/
theorem runsOk_of_pass {i : Instr} {b v : Bank} {s t : State} {cs : List (Bool × Failure)}
    (hexec : exec i (s.withArgs b) = .next ((s.withArgs b).checked cs fun _ => t.done v))
    (hpass : ∀ c ∈ cs, c.1 = false) : RunsOk i b s (t.done v) := by
  rw [State.checked_of_pass _ _ _ hpass] at hexec
  exact ⟨hexec, rfl⟩

/-- PUT_RECORD of a supported length code and a capacity that is enough, inside `BUF` (R201). -/
theorem putRecord_runs {b : Bank} {s : State} {p : Nat} {cap v : Word} {lc : BitVec 4} {fn : BitVec 2} {vif : Byte}
    (hops : putRecordOperands b = ⟨BitVec.ofNat 32 p, cap, lc, fn, vif, v⟩) (hwf : Memory.wf s.buf)
    (hsize : s.bufSize ≤ 2 ^ 24) (hfit : p + cap.toNat ≤ s.bufSize) (hcode : isLengthCode lc = true)
    (hcap : 2 + recordSize lc ≤ cap.toNat) :
    ∃ t, RunsOk .putRecord b s t ∧ Patched s t p (record fn lc vif v.toNat) := by
  have hdst : b.r0 = BitVec.ofNat 32 p := congrArg PutRecordOps.dst hops
  have hcap' : b.r1 = cap := congrArg PutRecordOps.cap hops
  have hlc : b.r2.toNat % 16 = recordSize lc := by rw [← putRecordOperands_lc, hops, recordSize]
  have hexec := exec_putRecord (s.withArgs b)
  rw [State.withArgs_a, State.withArgs_inBuf, hops, hdst, hcap', hlc, toNat_address hsize hfit] at hexec
  exact ⟨_, runsOk_of_pass hexec (by simp [hcode, State.inBuf_ofNat hsize hfit, Nat.not_lt.mpr hcap]),
    Patched.store hwf b _ p _⟩

/-- A record of two value bytes holds the low half of a register (R200). -/
theorem record_two_of_low (fn : BitVec 2) (vif : Byte) (w : Word) :
    record fn 2#4 vif w.toNat = record fn 2#4 vif (w.extractLsb' 0 16).toNat := by
  have hlow : leBytes 2 w.toNat = leBytes 2 (w.extractLsb' 0 16).toNat := by
    rw [leBytes_two, ← take_leBytes (n := 4) (by decide), leBytes_four]
    rfl
  exact congrArg (_ ++ ·) hlow

/-- The two PUT_RECORDs leave the records of a meter frame (R200, R203). -/
theorem putRecords_run {s : State} {p : Nat} (vol flow : Word) (hwf : Memory.wf s.buf) (hsize : s.bufSize ≤ 2 ^ 24)
    (hfit : p + 10 ≤ s.bufSize) :
    ∃ t u, RunsOk .putRecord { r0 := BitVec.ofNat 32 p, r1 := 6#32, r2 := 0x1304#32, r3 := vol } s t ∧
      RunsOk .putRecord { r0 := BitVec.ofNat 32 (p + 6), r1 := 4#32, r2 := 0x3B02#32, r3 := flow } t u ∧
      Patched s u p
        (record 0#2 4#4 0x13#8 vol.toNat ++ record 0#2 2#4 0x3B#8 (flow.extractLsb' 0 16).toNat) := by
  have hvolOps : putRecordOperands { r0 := BitVec.ofNat 32 p, r1 := 6#32, r2 := 0x1304#32, r3 := vol } =
      ⟨BitVec.ofNat 32 p, 6#32, 4#4, 0#2, 0x13#8, vol⟩ := by simp [putRecordOperands]
  have hflowOps : putRecordOperands { r0 := BitVec.ofNat 32 (p + 6), r1 := 4#32, r2 := 0x3B02#32, r3 := flow } =
      ⟨BitVec.ofNat 32 (p + 6), 4#32, 2#4, 0#2, 0x3B#8, flow⟩ := by simp [putRecordOperands]
  obtain ⟨t, hrun, hvol⟩ := putRecord_runs hvolOps hwf hsize (show p + 6 ≤ s.bufSize by omega) rfl (by decide)
  have hsize' : t.bufSize ≤ 2 ^ 24 := hvol.bufSize ▸ hsize
  have hfit' : p + 6 + 4 ≤ t.bufSize := hvol.bufSize ▸ hfit
  obtain ⟨u, hrun', hflow⟩ := putRecord_runs hflowOps hvol.wf hsize' hfit' rfl (by decide)
  exact ⟨t, u, hrun, hrun', hvol.append (record_two_of_low 0#2 0x3B#8 flow ▸ hflow)⟩

/-- STL_BUILD makes the checks of a header build, then lays out the header with the IV of the CORE's address (R112). -/
theorem exec_stlBuild (s : State) :
    exec .stlBuild s = .next (s.checked (transportChecks s (transportOperands s.a) 5) fun _ =>
      transportEffect s (transportOperands s.a) 5 s.dev (stlHeader (transportOperands s.a).acc)) := rfl

section
variable {b : Bank} {s t : State} {p : Nat} {acc : Byte} {access : BitVec 2} {sync : BitVec 1}

/-- STL_BUILD without encryption, its header inside `BUF`, writes the header alone (R112). -/
theorem stlBuild_runs_plain {pay plen pcap : Word}
    (hops : transportOperands b = ⟨BitVec.ofNat 32 p, 5#32, 0#5, acc, access, sync, pay, plen, pcap⟩)
    (hwf : Memory.wf t.buf) (hsize : t.bufSize ≤ 2 ^ 24) (hfit : p + 5 ≤ t.bufSize) :
    ∃ u, RunsOk .stlBuild b t u ∧ u.v.r1 = plen ∧ u.v.r2 = (builtCw 0 0#5 sync access).setWidth 32 ∧
      Patched t u p (stlHeader acc (builtCw 0 0#5 sync access)) := by
  have hexec := exec_stlBuild (t.withArgs b)
  rw [State.withArgs_a, hops, transportEffect, if_neg (show (0#5 : BitVec 5) ≠ 5#5 by decide)] at hexec
  have hrun := runsOk_of_pass hexec (by
    simp [transportChecks, isSecurityMode, State.inBuf_ofNat (n := 5) hsize hfit])
  refine ⟨_, hrun, rfl, rfl, ?_⟩
  rw [toNat_address hsize hfit]
  exact Patched.store hwf b _ p _

/-- STL_BUILD in Mode 5 around a payload of one block, in place behind the header (R112, R117). -/
theorem stlBuild_runs_encrypted {x : List Byte}
    (hops : transportOperands b =
      ⟨BitVec.ofNat 32 p, 5#32, 5#5, acc, access, sync, BitVec.ofNat 32 (p + 5), BitVec.ofNat 32 x.length, 16#32⟩)
    (hpos : 0 < x.length) (hlen : x.length ≤ 16) (hpay : Patched s t (p + 5) x) (hkey : s.keyValid = true)
    (hsize : s.bufSize ≤ 2 ^ 24) (hfit : p + 21 ≤ s.bufSize) :
    ∃ u, RunsOk .stlBuild b t u ∧ u.v.r1 = 16#32 ∧ u.v.r2 = (builtCw 1 5#5 sync access).setWidth 32 ∧
      Patched s u p (stlHeader acc (builtCw 1 5#5 sync access) ++ cbcEncrypt s.key (deriveIv s.dev acc) (pad x 1)) := by
  rw [← hpay.bufSize] at hsize hfit
  have hhdr : (BitVec.ofNat 32 p).toNat = p := toNat_address hsize hfit
  have hpayAddr : (BitVec.ofNat 32 (p + 5)).toNat = p + 5 := toNat_address hsize (n := 16) hfit
  have hplen : (BitVec.ofNat 32 x.length).toNat = x.length := Nat.mod_eq_of_lt (by omega)
  have hblocks : ceilDiv16 x.length = 1 := by unfold ceilDiv16; omega
  have hcipher : transportCiphertext (t.withArgs b) (transportOperands b) t.dev =
      cbcEncrypt s.key (deriveIv s.dev acc) (pad x 1) := by
    rw [transportCiphertext, hops, State.withArgs_key, State.withArgs_memRead, hpayAddr, hplen, hpay.memRead, hblocks,
      hpay.key, hpay.dev]
  have hlenCipher : (cbcEncrypt s.key (deriveIv s.dev acc) (pad x 1)).length = 16 := by
    rw [length_cbcEncrypt, length_pad x 1 hlen]
  have hexec := exec_stlBuild (t.withArgs b)
  rw [State.withArgs_a, State.withArgs_dev, transportEffect, hcipher, hops, if_pos rfl, hhdr, hpayAddr, hplen, hblocks,
    State.withArgs_memWrite] at hexec
  have hhdrIn : t.inBuf (BitVec.ofNat 32 p) 5 = true := State.inBuf_ofNat hsize (by omega)
  have hpayIn : t.inBuf (BitVec.ofNat 32 (p + 5)) 16 = true := State.inBuf_ofNat hsize hfit
  have hnull := address_ne_null hsize (p := p + 5) (n := 16) hfit
  have hzero : BitVec.ofNat 32 x.length ≠ 0#32 := BitVec.toNat_ne.mpr (hplen.trans_ne hpos.ne')
  have hrun := runsOk_of_pass hexec (by
    simp [transportChecks, hnull, hzero, hpay.keyValid, hkey, hhdrIn, hpayIn, overlap, hhdr, hpayAddr, hplen, hblocks])
  refine ⟨_, hrun, rfl, rfl, ?_⟩
  have hbehind := hpay.replace (Patched.memWrite hpay.wf (p + 5) _) (hlen.trans_eq hlenCipher.symm)
  exact hbehind.prepend (Patched.store hbehind.wf b _ p _)

/-- DLL_BUILD of a length whose `lField` is a byte, its header inside `BUF` (R109). -/
theorem dllBuild_runs {d : DeviceAddress} {fc : BitVec 4} {fcv fcb prm : BitVec 1} {len : Word} {lf : Byte}
    (hops : dllBuildOperands b = ⟨BitVec.ofNat 32 p, 10#32, d, fc, fcv, fcb, prm, false, len⟩)
    (hlf : lField len.toNat false = some lf) (hwf : Memory.wf t.buf) (hsize : t.bufSize ≤ 2 ^ 24)
    (hfit : p + 10 ≤ t.bufSize) :
    ∃ u, RunsOk .dllBuild b t u ∧ u.v.r1 = lf.setWidth 32 ∧ Patched t u p (dllHeader lf (cField fc fcv fcb prm) d) := by
  have hdst : b.r0 = BitVec.ofNat 32 p := congrArg DllBuildOps.dst hops
  have hcap : b.r1 = 10#32 := congrArg DllBuildOps.cap hops
  have hlen : b.r6 = len := congrArg DllBuildOps.t hops
  have hexec := exec_dllBuild (t.withArgs b)
  rw [← cField_dllBuildOperands, State.withArgs_a, State.withArgs_inBuf, hops, hdst, hcap, hlen, hlf,
    toNat_address hsize hfit] at hexec
  have hrun := runsOk_of_pass hexec (by simp [State.inBuf_ofNat (n := 10) hsize hfit])
  exact ⟨_, hrun, rfl, Patched.store hwf b _ p _⟩

end

/-! ### The sequence for a meter frame -/

/-- A meter frame holds its two headers, and its length is a byte (R204). -/
theorem meterLength_bounds (o : MeterOps) : 15 < meterLength o ∧ meterLength o < 256 := by
  unfold meterLength
  split <;> decide

/-- The arguments of the STL_BUILD of the sequence (R204). -/
def meterStlArgs (a : Bank) (dst : Nat) : Bank where
  r0 := BitVec.ofNat 32 (dst + 10)
  r1 := 5#32
  r2 := BitVec.ofNat 32 ((if a.r2.toNat / 2 ^ 17 % 2 = 1 then 5 else 0) + 256 * (a.r2.toNat % 256) +
    2 ^ 16 * (a.r2.toNat / 256 % 4) + 2 ^ 24 * (a.r2.toNat / 2 ^ 16 % 2))
  r3 := BitVec.ofNat 32 (dst + 15)
  r4 := BitVec.ofNat 32 (10 + if a.r2.toNat / 2 ^ 17 % 2 = 1 then 2 else 0)
  r5 := 16#32

/-- They hand STL_BUILD the fields of BUILD_METER_FRAME (R72, R112, R204). -/
theorem transportOperands_meterStlArgs (a : Bank) (dst : Nat) :
    transportOperands (meterStlArgs a dst) =
      ⟨BitVec.ofNat 32 (dst + 10), 5#32, if (meterOperands a).encrypt then 5#5 else 0#5, (meterOperands a).acc,
        (meterOperands a).access, (meterOperands a).periodic, BitVec.ofNat 32 (dst + 15),
        if (meterOperands a).encrypt then 12#32 else 10#32, 16#32⟩ := by
  obtain ⟨hencrypt, hperiodic, haccess⟩ := meterOperands_toNat a
  have hacc : (meterOperands a).acc.toNat = a.r2.toNat % 256 := BitVec.extractLsb'_toNat 0 8 a.r2
  have hword : (meterStlArgs a dst).r2.toNat = (if a.r2.toNat / 2 ^ 17 % 2 = 1 then 5 else 0) +
      256 * (a.r2.toNat % 256) + 2 ^ 16 * (a.r2.toNat / 256 % 4) + 2 ^ 24 * (a.r2.toNat / 2 ^ 16 % 2) :=
    Nat.mod_eq_of_lt (by split <;> omega)
  simp only [transportOperands, TransportOps.mk.injEq, ← BitVec.toNat_inj, toNat_extractLsb', hword, hperiodic, haccess,
    hacc, hencrypt]
  refine ⟨rfl, rfl, ?_, ?_, ?_, ?_, rfl, ?_, rfl⟩
  · split <;> (simp; omega)
  · split <;> omega
  · split <;> omega
  · split <;> omega
  · simp only [meterStlArgs]
    split <;> rfl

/-- The arguments of the DLL_BUILD of the sequence, for a frame of `len` bytes of the device `d` (R204). -/
def meterDllArgs (d : DeviceAddress) (dst len : Nat) : Bank where
  r0 := BitVec.ofNat 32 dst
  r1 := 10#32
  r2 := d.mfr.setWidth 32
  r3 := d.id
  r4 := BitVec.ofNat 32 (d.ver.toNat + 256 * d.type.toNat)
  r5 := 0x44#32
  r6 := BitVec.ofNat 32 len

/-- They hand DLL_BUILD the device's address and the C-field 0x44 (R72, R109, R204). -/
theorem dllBuildOperands_meterDllArgs (d : DeviceAddress) (dst len : Nat) :
    dllBuildOperands (meterDllArgs d dst len) =
      ⟨BitVec.ofNat 32 dst, 10#32, d, 4#4, 0#1, 0#1, 1#1, false, BitVec.ofNat 32 len⟩ := by
  have hmfr : (d.mfr.setWidth 32).extractLsb' 0 16 = d.mfr := extractLsb'_setWidth_of_le d.mfr (by decide)
  have hword : (BitVec.ofNat 32 (d.ver.toNat + 256 * d.type.toNat)).toNat = d.ver.toNat + 256 * d.type.toNat :=
    Nat.mod_eq_of_lt (by omega)
  have hver : (BitVec.ofNat 32 (d.ver.toNat + 256 * d.type.toNat)).extractLsb' 0 8 = d.ver := by
    rw [← BitVec.toNat_inj, toNat_extractLsb', hword]
    omega
  have htype : (BitVec.ofNat 32 (d.ver.toNat + 256 * d.type.toNat)).extractLsb' 8 8 = d.type := by
    rw [← BitVec.toNat_inj, toNat_extractLsb', hword]
    omega
  simp only [dllBuildOperands, meterDllArgs, hmfr, hver, htype]
  rfl

section
variable {s t : State} {dst : Nat} (hsize : s.bufSize ≤ 2 ^ 24)
  (hfit : dst + meterLength (meterOperands s.a) ≤ s.bufSize)
include hsize hfit

/-- The STL_BUILD of the sequence leaves the transport-layer header and, behind it, the payload as it stands in the
frame (R204). -/
theorem meterStlBuild_runs (hkey : (meterOperands s.a).encrypt = true → s.keyValid = true)
    (hpay : Patched s t (dst + 15)
      (meterPayload (meterOperands s.a).vol (meterOperands s.a).flow (meterOperands s.a).encrypt)) :
    ∃ u, RunsOk .stlBuild (meterStlArgs s.a dst) t u ∧
      u.v.r1 = BitVec.ofNat 32 (meterLength (meterOperands s.a) - 15) ∧
      u.v.r2 = (meterCw (meterOperands s.a)).setWidth 32 ∧
      Patched s u (dst + 10)
        (stlHeader (meterOperands s.a).acc (meterCw (meterOperands s.a)) ++ meterBody s (meterOperands s.a)) := by
  have hops := transportOperands_meterStlArgs s.a dst
  cases henc : (meterOperands s.a).encrypt with
  | true =>
    simp only [meterLength, meterCw, meterBody, henc, if_true] at hops hpay hfit ⊢
    have hlen := length_meterPayload (meterOperands s.a).vol (meterOperands s.a).flow true
    rw [if_pos rfl] at hlen
    exact stlBuild_runs_encrypted (hlen.symm ▸ hops) (by omega) (by omega) hpay (hkey henc) hsize hfit
  | false =>
    simp only [meterLength, meterCw, meterBody, henc, Bool.false_eq_true, if_false] at hops hpay hfit ⊢
    have hsize' : t.bufSize ≤ 2 ^ 24 := hpay.bufSize ▸ hsize
    have hfit' : dst + 10 + 5 ≤ t.bufSize := by rw [hpay.bufSize]; omega
    obtain ⟨u, hrun, hv1, hv2, hheader⟩ := stlBuild_runs_plain hops hpay.wf hsize' hfit'
    exact ⟨u, hrun, hv1, hv2, hpay.prepend hheader⟩

/-- The DLL_BUILD of the sequence puts the data-link header of the frame in front (R204). -/
theorem meterDllBuild_runs {y : List Byte} (hy : Patched s t (dst + 10) y) :
    ∃ u, RunsOk .dllBuild (meterDllArgs s.dev dst (meterLength (meterOperands s.a))) t u ∧
      u.v.r1 = BitVec.ofNat 32 (meterLength (meterOperands s.a) - 1) ∧
      Patched s u dst (dllHeader ((lField (meterLength (meterOperands s.a)) false).getD 0#8)
        (cField 4#4 0#1 0#1 1#1) s.dev ++ y) := by
  obtain ⟨hlow, hhigh⟩ := meterLength_bounds (meterOperands s.a)
  generalize hlen : meterLength (meterOperands s.a) = len at *
  have hlf : lField (BitVec.ofNat 32 len).toNat false = some (BitVec.ofNat 8 (len - 1)) := by
    rw [BitVec.toNat_ofNat, Nat.mod_eq_of_lt (by omega), ← hlen, lField_meterLength]
  have hsize' : t.bufSize ≤ 2 ^ 24 := hy.bufSize ▸ hsize
  have hfit' : dst + 10 ≤ t.bufSize := by rw [hy.bufSize]; omega
  obtain ⟨u, hrun, hv1, hheader⟩ :=
    dllBuild_runs (dllBuildOperands_meterDllArgs s.dev dst len) hlf hy.wf hsize' hfit'
  have hbyte : (BitVec.ofNat 8 (len - 1)).toNat = len - 1 := Nat.mod_eq_of_lt (by omega)
  refine ⟨u, hrun, hv1.trans (setWidth_eq_ofNat hbyte), ?_⟩
  rw [← hlen, lField_meterLength, Option.getD_some, hlen]
  exact hy.prepend hheader

end

/-- A BUILD_METER_FRAME that succeeds has the key it needs and its frame inside `BUF`, where the frame then stands
(R204). -/
theorem buildMeterFrame_ok {s f : State} (hwf : Memory.wf s.buf) (hf : exec .buildMeterFrame s = .next f)
    (hok : f.status = 0#32) :
    ((meterOperands s.a).encrypt = true → s.keyValid = true) ∧
      s.a.r0.toNat + meterLength (meterOperands s.a) ≤ s.bufSize ∧
      f.v.r1 = BitVec.ofNat 32 (meterLength (meterOperands s.a) - 1) ∧
      f.v.r2 = (meterCw (meterOperands s.a)).setWidth 32 ∧
      Patched s f s.a.r0.toNat (meterFrame s (meterOperands s.a)) := by
  obtain ⟨hchecks, rfl⟩ := checked_ok (exec_buildMeterFrame s) hf hok
  simp only [List.forall_mem_cons, Bool.and_eq_false_imp, Bool.not_eq_false', decide_eq_false_iff_not, Nat.not_lt]
    at hchecks
  obtain ⟨hkey, hrange, hcap, -⟩ := hchecks
  obtain ⟨hlow, -⟩ := meterLength_bounds (meterOperands s.a)
  have hend := s.inBuf_bound _ _ hrange (by omega)
  exact ⟨hkey, by omega, rfl, rfl, Patched.store hwf s.a _ _ _⟩

/-- Settles O57: each command of the sequence runs and replaces its part of the frame, and in the end the same stretch of
`BUF` holds the same bytes. -/
theorem meterFrameEqualsCommandSequence : Obligations.MeterFrameEqualsCommandSequence := by
  unfold Obligations.MeterFrameEqualsCommandSequence
  intro s f hinv hf hok enc dst off s0
  obtain ⟨⟨-, hsize, -, -⟩, hwf, -⟩ := hinv
  obtain ⟨hkey, hfit, hv1, hv2, hframe⟩ := buildMeterFrame_ok hwf hf hok
  obtain ⟨hencrypt, -, -⟩ := meterOperands_toNat s.a
  obtain ⟨hfillers, hoff, hroom⟩ :
      Patched s s0 (dst + 15) (if (meterOperands s.a).encrypt then [filler, filler] else []) ∧
      (if (meterOperands s.a).encrypt then [filler, filler] else []).length = off ∧
      dst + 15 + off + 10 ≤ s.bufSize := by
    simp only [meterLength, hencrypt] at hfit ⊢
    by_cases henc : s.a.r2.toNat / 2 ^ 17 % 2 = 1
    · simp only [enc, s0, off, if_pos henc] at hfit ⊢
      exact ⟨Patched.memWrite hwf _ _, rfl, by omega⟩
    · simp only [enc, s0, off, if_neg henc] at hfit ⊢
      exact ⟨Patched.refl hwf _, rfl, by omega⟩
  obtain ⟨t1, t2, hrun1, hrun2, hrecords⟩ := putRecords_run (s := s0) (p := dst + 15 + off) s.a.r3 s.a.r4 hfillers.wf
    (hfillers.bufSize ▸ hsize) (hfillers.bufSize ▸ hroom)
  rw [← hoff] at hrecords
  obtain ⟨t3, hrun3, hlen, hcw, hbody⟩ := meterStlBuild_runs hsize hfit hkey (by
    rw [meterPayload, List.append_assoc]
    exact hfillers.append hrecords)
  obtain ⟨t4, hrun4, hlf, hall⟩ := meterDllBuild_runs hsize hfit hbody
  rw [← List.append_assoc] at hall
  refine ⟨t1, t2, t3, t4, hrun1, ?_, hrun3, ?_, hall.readByte_eq hframe, hcw.trans hv2.symm, hlf.trans hv1.symm⟩
  · rw [show dst + 21 + off = dst + 15 + off + 6 by omega]
    exact hrun2
  · have htotal : 15 + t3.v.r1.toNat = meterLength (meterOperands s.a) := by
      obtain ⟨hlow, hhigh⟩ := meterLength_bounds (meterOperands s.a)
      rw [hlen, BitVec.toNat_ofNat]
      omega
    rw [htotal]
    exact hrun4

end Sys2Proof.Machine

/-! The timing model (R205 to R208): the row of the access-window table that ACCESS_WINDOW returns, and the jittered
period of ACCESS_DELAY. -/

namespace Sys2Proof.Machine

/-! ### ACCESS_WINDOW (R205, R206) -/

/-- The operands of ACCESS_WINDOW as numbers (R206). -/
theorem windowOperands_eq (a : Bank) :
    (windowOperands a).m = BitVec.ofNat 4 (a.r0.toNat % 16) ∧
      (windowOperands a).slow = decide (a.r2.toNat % 2 = 1) := by
  refine ⟨BitVec.eq_of_toNat_eq ?_, ?_⟩
  · simp [windowOperands]
  · simp [windowOperands, BitVec.getLsbD, Nat.testBit_eq_decide_div_mod_eq]

/-- The row of the table for a FrameMode code (R205). -/
theorem accessWindow_ofNat {m : Nat} (h : m < 16) (slow : Bool) :
    accessWindow (BitVec.ofNat 4 m) slow =
      if m = 1 ∨ m = 2 then (2000#32, 3000#32)
      else if m = 3 ∨ m = 4 then (if slow then (999500#32, 1000500#32) else (99500#32, 100500#32))
      else (Config.awStart (BitVec.ofNat 4 m) slow, Config.awStop (BitVec.ofNat 4 m) slow) := by
  have hcode (n : Nat) (hn : n < 16) : BitVec.ofNat 4 m = BitVec.ofNat 4 n ↔ m = n := by
    rw [← BitVec.toNat_inj, BitVec.toNat_ofNat, BitVec.toNat_ofNat, Nat.mod_eq_of_lt h, Nat.mod_eq_of_lt hn]
  simp only [accessWindow, hcode 1 (by decide), hcode 2 (by decide), hcode 3 (by decide), hcode 4 (by decide)]

/-- ACCESS_WINDOW makes its one check, then returns the row (R206). -/
theorem exec_accessWindow (s : State) :
    exec .accessWindow s =
      .next (s.checked [(decide (8 < s.a.r0.toNat % 16), .reservedOperand)] fun _ => s.done
        { r0 := (accessWindow (BitVec.ofNat 4 (s.a.r0.toNat % 16)) (decide (s.a.r2.toNat % 2 = 1))).1,
          r1 := (accessWindow (BitVec.ofNat 4 (s.a.r0.toNat % 16)) (decide (s.a.r2.toNat % 2 = 1))).2 }) := by
  obtain ⟨hm, hslow⟩ := windowOperands_eq s.a
  have hcode : (windowOperands s.a).m.toNat = s.a.r0.toNat % 16 := BitVec.extractLsb'_toNat 0 4 s.a.r0
  rw [← hm, ← hslow, ← hcode]
  rfl

/-- Settles O58: the check of the code, then the row of the table for the code. -/
theorem accessWindowLooksUpTheTable : Obligations.AccessWindowLooksUpTheTable := by
  unfold Obligations.AccessWindowLooksUpTheTable
  refine ⟨rfl, fun s => ?_⟩
  refine failsWith_or_of_check (exec_accessWindow s) ⟨rfl, rfl, rfl⟩ decide_eq_true_iff fun hexec _ => ?_
  rw [accessWindow_ofNat (Nat.mod_lt _ (by decide))] at hexec
  have hrow := completesSilently_of_done hexec
  split
  case isTrue hfixed =>
    rwa [if_pos hfixed] at hrow
  case isFalse hfixed =>
    rw [if_neg hfixed] at hrow
    split
    case isTrue hspeed =>
      rw [if_pos hspeed] at hrow
      by_cases hslow : s.a.r2.toNat % 2 = 1 <;> simpa [hslow] using hrow
    case isFalse hspeed =>
      rwa [if_neg hspeed] at hrow

/-! ### ACCESS_DELAY (R207, R208) -/

/-- `AccessDelay` with the offset from 128 as a natural number (R207). -/
theorem accessDelay_eq (acc : Byte) (t : Nat) :
    accessDelay acc t = (1984 + if acc.toNat < 128 then 128 - acc.toNat else acc.toNat - 128) * t / 2048 := by
  have hfactor : 2048 + ((acc.toNat : Int) - 128).natAbs - 64 =
      1984 + if acc.toNat < 128 then 128 - acc.toNat else acc.toNat - 128 := by
    split <;> omega
  rw [accessDelay, hfactor]

/-- ACCESS_DELAY returns the period in two registers and checks nothing (R208). -/
theorem exec_accessDelay (s : State) :
    exec .accessDelay s = .next (s.done
      { r0 := BitVec.ofNat 32 (accessDelay (delayOperands s.a).acc s.a.r1.toNat),
        r1 := BitVec.ofNat 32 (accessDelay (delayOperands s.a).acc s.a.r1.toNat / 2 ^ 32) }) := rfl

/-- The offset from 128 is at most 128, so the factor is at most 2112 and a period of 32 bits grows to at most 33. -/
theorem accessDelay_lt (acc : Byte) {t : Nat} (h : t < 2 ^ 32) : accessDelay acc t < 2 ^ 33 := by
  have hoffset : (1984 + if acc.toNat < 128 then 128 - acc.toNat else acc.toNat - 128) ≤ 2112 := by
    split <;> omega
  have hproduct := Nat.mul_le_mul_right t hoffset
  rw [accessDelay_eq]
  omega

/-- A number of 33 bits in two registers: its low 32 bits, and the bit above (R208). -/
theorem ofNat_split {r : Nat} (h : r < 2 ^ 33) :
    BitVec.ofNat 32 r = BitVec.ofNat 32 (r % 2 ^ 32) ∧
      BitVec.ofNat 32 (r / 2 ^ 32) = if r < 2 ^ 32 then 0#32 else 1#32 := by
  refine ⟨BitVec.eq_of_toNat_eq (by simp), ?_⟩
  split
  case isTrue hlow => rw [Nat.div_eq_of_lt hlow]
  case isFalse hhigh => rw [show r / 2 ^ 32 = 1 by omega]

/-- Settles O59: the period is below 2^33, and its two parts are the results. -/
theorem accessDelayReturnsThePeriod : Obligations.AccessDelayReturnsThePeriod := by
  unfold Obligations.AccessDelayReturnsThePeriod
  refine ⟨rfl, fun s => ?_⟩
  have hacc : (delayOperands s.a).acc.toNat = s.a.r0.toNat % 256 := BitVec.extractLsb'_toNat 0 8 s.a.r0
  have hbound := accessDelay_lt (delayOperands s.a).acc s.a.r1.isLt
  obtain ⟨hlow, hhigh⟩ := ofNat_split hbound
  have hstep := completesSilently_of_done (exec_accessDelay s)
  rw [hlow, hhigh] at hstep
  rw [accessDelay_eq, hacc] at hstep hbound
  exact ⟨hstep, hbound⟩

/-- Settles O60: the quotient's bounds, the offset 0, the equal offsets of 128 - x and 128 + x, and the two ends. -/
theorem accessDelayFormula : Obligations.AccessDelayFormula := by
  unfold Obligations.AccessDelayFormula
  refine ⟨fun acc t => ?_, fun t => by rw [accessDelay_eq]; rfl, fun x t hx => ?_, rfl, rfl⟩
  · intro d
    have hfactor : 2048 + d - 64 = 1984 + d := by omega
    rw [accessDelay_eq, hfactor]
    exact ⟨Nat.div_mul_le_self _ _, Nat.lt_div_mul_add (by decide)⟩
  · have hbelow : (BitVec.ofNat 8 (128 - x)).toNat = 128 - x := Nat.mod_eq_of_lt (by omega)
    have habove : (BitVec.ofNat 8 (128 + x)).toNat = 128 + x := Nat.mod_eq_of_lt (by omega)
    have hoffset : (if 128 - x < 128 then 128 - (128 - x) else 128 - x - 128) = x := by split <;> omega
    rw [accessDelay_eq, accessDelay_eq, hbelow, habove, hoffset, if_neg (by omega), Nat.add_sub_cancel_left]

end Sys2Proof.Machine

/-! Exceptions and the reset event (R220, R224, R226, R231, R250): every command word ends in a legal report, a failed
command leaves nothing else behind, and no command sees what an earlier one reported. -/

namespace Sys2Proof.Machine

section
variable {i : Instr} {s t : State}

/-! ### The reset event (R250) -/

/-- The reset event is a move in every state (R250). -/
theorem step_of_reset {rest : List Event} (hin : s.inputs = .reset :: rest) :
    step s = .next (State.resetEvent { s with inputs := rest }) := by
  simp only [step, hin, eventMove]

/-! ### The report of a command word (R222, R231) -/

/-- Every shape of the end of a command reports OK or a row of R222. -/
theorem CommandEnd.reportLegal (h : CommandEnd i s t) : ReportLegal t := by
  cases h with
  | failed f => exact reportLegal_raise s f {}
  | salvaged p x f v => exact reportLegal_raise (s.memWrite p x) f v
  | finished v => exact reportLegal_done s v
  | stored p x v => exact reportLegal_done (s.memWrite p x) v
  | storedTwo p q x y v => exact reportLegal_done ((s.memWrite p x).memWrite q y) v
  | moded m => exact reportLegal_done (s.setMode m) {}
  | keyed k => exact reportLegal_done (s.setKey k) {}

/-- A command word, legal or not, runs to an end with a legal report, stands in `CMD` and takes no further event (R26,
R73, R231). -/
theorem issueCommand_completes (s : State) (w : Word) :
    ∃ t, issueCommand s w = .next t ∧ ReportLegal t ∧ t.cmd = w ∧ t.inputs = s.inputs := by
  cases hdecode : decode w with
  | error e =>
    rw [issueCommand_of_decode_error hdecode]
    exact ⟨_, rfl, reportLegal_raise _ .illegalWord {}, rfl, rfl⟩
  | ok i =>
    rw [issueCommand_of_decode hdecode]
    obtain ⟨t, ht, hend⟩ := exec_end i { s with cmd := w }
    obtain ⟨-, hcmd, -, -, -, -, hinputs⟩ := hend.keepsFixed
    exact ⟨t, ht, hend.reportLegal, hcmd, hinputs⟩

/-! ### Failed commands (R220, R224) -/

/-- An end that does not report OK, other than PHY_DECODE's with a bad block, is the failure of a check. -/
theorem CommandEnd.eq_raise_of_not_ok (h : CommandEnd i s t) (hi : i ≠ .phyDecode) (hfail : t.status ≠ 0#32) :
    ∃ f, t = s.raise f := by
  cases h with
  | failed f => exact ⟨f, rfl⟩
  | salvaged p x f v hx hf hdecode => exact absurd hdecode hi
  | _ => exact absurd rfl hfail

end

/-! ### Replacing the report of the last command (R226) -/

/-- The state with `v` in `V0..V7`, `st` in `STATUS` and `e` in `ERRINFO`. -/
def State.withReport (s : State) (v : Bank) (st e : Word) : State :=
  { s with v := v, status := st, errinfo := e }

/-! What a command reads does not see `withReport`; `withReport` moves outwards through what a command stores, and the
end of the command overwrites it. -/

section
variable (s : State) (v : Bank) (st e : Word)

@[simp] theorem State.withReport_a : (s.withReport v st e).a = s.a := rfl
@[simp] theorem State.withReport_key : (s.withReport v st e).key = s.key := rfl
@[simp] theorem State.withReport_dev : (s.withReport v st e).dev = s.dev := rfl

@[simp] theorem State.withReport_memRead (p n : Nat) : (s.withReport v st e).memRead p n = s.memRead p n :=
  State.memRead_congr _ _ _ _ _ fun _ _ => rfl

@[simp] theorem State.withReport_memWrite (p : Nat) (x : List Byte) :
    (s.withReport v st e).memWrite p x = (s.memWrite p x).withReport v st e := rfl

@[simp] theorem State.withReport_setMode (m : BitVec 4) :
    (s.withReport v st e).setMode m = (s.setMode m).withReport v st e := rfl

@[simp] theorem State.withReport_setKey (k : Block) :
    (s.withReport v st e).setKey k = (s.setKey k).withReport v st e := rfl

@[simp] theorem State.withReport_raise (f : Failure) (r : Bank) :
    (s.withReport v st e).raise f r = s.raise f r := rfl

@[simp] theorem State.withReport_done (r : Bank) : (s.withReport v st e).done r = s.done r := rfl

/-- A command with checks does not see the last report when its effect does not. -/
theorem State.withReport_checked {cs cs' : List (Bool × Failure)} {g g' : Unit → State} (hcs : cs' = cs)
    (hg : g' () = g ()) : (s.withReport v st e).checked cs' g' = s.checked cs g := by
  subst hcs
  unfold State.checked
  cases firstFailure cs' with
  | some f => exact s.withReport_raise v st e f {}
  | none => exact hg

@[simp] theorem withReport_dllBuildEffect (o : DllBuildOps) (lf : Byte) :
    dllBuildEffect (s.withReport v st e) o lf = dllBuildEffect s o lf := rfl

/-- A header build does not see the last report, whether or not it encrypts the payload (R112, R115). -/
@[simp] theorem withReport_transportEffect (o : TransportOps) (n : Nat) (d : DeviceAddress)
    (hd : BitVec 16 → List Byte) :
    transportEffect (s.withReport v st e) o n d hd = transportEffect s o n d hd := by
  simp [transportEffect, transportCiphertext]

@[simp] theorem withReport_transportParseChecks (o : ParseOps) (n : Nat) (cw : BitVec 16) :
    transportParseChecks (s.withReport v st e) o n cw = transportParseChecks s o n cw := rfl

/-- PHY_DECODE does not see the last report, whether or not a block fails (R148, R149). -/
@[simp] theorem withReport_phyDecodeEffect (o : PhyOps) (n : Nat) :
    phyDecodeEffect (s.withReport v st e) o n = phyDecodeEffect s o n := by
  simp [phyDecodeEffect]

/-- GET_RECORD does not see the last report, with a record or with fillers only (R202). -/
@[simp] theorem withReport_getRecordFrom (d : List Byte) :
    getRecordFrom (s.withReport v st e) d = getRecordFrom s d :=
  ite_congr rfl (fun _ => rfl) fun _ => s.withReport_checked v st e rfl rfl

/-- The two runs of a command make the same checks, and its effect does not see the replacement. -/
theorem exec_withReport_of_effect {i : Instr} {cs cs' : List (Bool × Failure)} {g g' : Unit → State}
    (h : exec i s = .next (s.checked cs g))
    (h' : exec i (s.withReport v st e) = .next ((s.withReport v st e).checked cs' g'))
    (hcs : cs' = cs) (hg : g' () = g ()) : exec i (s.withReport v st e) = exec i s := by
  rw [h, h', s.withReport_checked v st e hcs hg]

/-- No command sees the report of an earlier one (R226). -/
theorem exec_withReport (i : Instr) : exec i (s.withReport v st e) = exec i s := by
  cases i with
  | nop | accessDelay => rfl
  -- in T-Meter a second row of checks follows; else the operands are passed through
  | phyEncode | phyDecode =>
    exact exec_withReport_of_effect s v st e rfl rfl rfl
      (ite_congr rfl (fun _ => rfl) fun _ => s.withReport_checked v st e rfl (by simp))
  -- a check reads the configuration word in the memory
  | stlParse | ltlParse => exact exec_withReport_of_effect s v st e rfl rfl (by simp) (by simp)
  -- the frame and its body are read from fields the replacement leaves alone
  | buildMeterFrame => exact exec_withReport_of_effect s v st e rfl rfl rfl rfl
  | _ => exact exec_withReport_of_effect s v st e rfl rfl rfl (by simp)

end

/-- Settles O6: the step is the reset event, whose fields are the reset values and the constants. -/
theorem resetEventRestoresResetValues : Obligations.ResetEventRestoresResetValues := by
  unfold Obligations.ResetEventRestoresResetValues
  intro s rest hin
  exact ⟨_, step_of_reset hin, fun k => ⟨Bank.get_default k, Bank.get_default k⟩, rfl, rfl, rfl, rfl, rfl, rfl, rfl,
    rfl, State.readByte_of_unwritten rfl⟩

/-- Settles O13: the write to `CMD` issues the word, and every word issued runs to an end. -/
theorem everyCommandWriteCompletes : Obligations.EveryCommandWriteCompletes := by
  unfold Obligations.EveryCommandWriteCompletes
  intro s w rest hin
  rw [step_of_issue hin (eventMove_write_cmd _ w)]
  exact issueCommand_completes { s with inputs := rest } w

/-- Settles O15: of the shapes of a command's end, only the failure of a check is left. -/
theorem failedCommandsLeaveOutputsUntouched : Obligations.FailedCommandsLeaveOutputsUntouched := by
  unfold Obligations.FailedCommandsLeaveOutputsUntouched
  intro i s t hi h hfail
  obtain ⟨f, rfl⟩ := (commandEnd_of_exec i s t h).eq_raise_of_not_ok hi hfail
  rfl

/-- Settles O16: no command sees the replacement of the last report. -/
theorem commandsIgnoreTheLastReport : Obligations.CommandsIgnoreTheLastReport :=
  fun i s v st e => exec_withReport s v st e i

end Sys2Proof.Machine
